-- ==== Sys2Proof/Word.lean ====
section
/-! DEFINITION. The byte type of the MPS04 block (spec/00_scope.md R7: bit 0 is the least significant bit; a byte is 8 bits,
unsigned). Every access of every space of the block is one byte wide (spec/20_memory.md R68). -/

namespace Sys2Proof

/-- A byte: 8 bits, unsigned (R7). -/
abbrev Byte := BitVec 8

end Sys2Proof
end

