-- ==== Sys2Proof/Syntax.lean ====
section
/-! DEFINITION. The whole request and wire-byte syntax: one constructor of `Instr` per row of spec/opcode_table.json
(spec/30_encoding.md R92 to R101). A model that represents requests as an inductive type needs only the names (R90). -/

namespace Sys2Proof

/-- A button channel, numbered 1 and 2 in the spec (R7; R99: CHSEL 0 selects channel 1, 1 selects channel 2). -/
inductive Channel where
  | one
  | two
  deriving DecidableEq, Repr, Inhabited

/-- The command/data mode of a transfer and the value of the CD line (R34, R99: MODE 0 = COMMAND, 1 = DATA). -/
inductive Mode where
  | command
  | data
  deriving DecidableEq, Repr, Inhabited

/-- The six byte slots B0 .. B5 of an XFER request and of the transfer buffer XBUF (R35, R99). -/
structure Bytes6 where
  b0 : Byte
  b1 : Byte
  b2 : Byte
  b3 : Byte
  b4 : Byte
  b5 : Byte
  deriving DecidableEq, Repr, Inhabited

/-- The events, operations and wire-byte formats of the block: one constructor per row of the opcode table. -/
inductive Instr where
  /-- SEL 0x0, `on_pin_change(1)` (R121). -/
  | pinchg1
  /-- SEL 0x1, `on_pin_change(2)` (R121). -/
  | pinchg2
  /-- SEL 0x2, `on_deadline_expired(1)` (R125). -/
  | dlexp1
  /-- SEL 0x3, `on_deadline_expired(2)` (R125). -/
  | dlexp2
  /-- SEL 0x4, the unrecognized timer-interrupt source (R144). -/
  | tmrother
  /-- SEL 0x5, one increment of the free-running counter (R140). -/
  | tick
  /-- SEL 0x6, a change of a button pin level; `true` is high = released (R120). -/
  | btnset (ch : Channel) (level : Bool)
  /-- SEL 0x7, reserved (R101). -/
  | reserved7
  /-- SEL 0x8, `transfer(bytes, mode)`: LEN and the six byte fields, of which the first LEN are used (R99, R160). -/
  | xfer (mode : Mode) (len : BitVec 3) (b : Bytes6)
  /-- SEL 0x9, `set_position(page, column)` (R190). -/
  | setpos (page : BitVec 4) (col : BitVec 8)
  /-- SEL 0xA, `draw_glyph(index, page, column)` (R200). -/
  | glyph (idx : BitVec 4) (page : BitVec 4) (col : BitVec 8)
  /-- SEL 0xB, `render(value, page, start_column)` (R213). -/
  | render (val : Int) (page : BitVec 4) (col : BitVec 8)
  /-- SEL 0xC, the polarity button's bound action (R210). -/
  | invert
  /-- SEL 0xD, the counter button's bound action (R212). -/
  | cntstep
  /-- SEL 0xE (`false`) and 0xF (`true`), reserved (R101). -/
  | reservedEF (low : Bool)
  /-- Wire command byte `0001cccc` (R92). -/
  | wColhi (c : BitVec 4)
  /-- Wire command byte `0000cccc` (R93). -/
  | wCollo (c : BitVec 4)
  /-- Wire command byte `1011pppp` (R94). -/
  | wPage (p : BitVec 4)
  /-- Wire command byte `1010011p` (R95). -/
  | wInv (p : BitVec 1)
  /-- Wire data byte `dddddddd` (R96). -/
  | wData (d : Byte)
  deriving DecidableEq, Repr

end Sys2Proof
end

