-- ==== Sys2Proof/WellFormed.lean ====
section
/-! DEFINITION. Which requests are legal as syntax: the operand ranges of spec/30_encoding.md R99 and spec/20_memory.md R70 that
do not depend on a parameter, and no reserved selector (R101). An ill-formed request is not an unrepresentable one: it is
encoded, decoded and executed like any other, and its meaning is the refusal the spec names (R70, R101). -/

namespace Sys2Proof

/-- N_CH of R5: the number of button channels (R7); `Channel` has one constructor for each. -/
abbrev nCh : Nat := 2

/-- GLYPH_BYTES of R5: the bytes of one glyph. -/
abbrev glyphBytes : Nat := 12

/-- HALF_BYTES of R5: the bytes of one glyph half. -/
abbrev halfBytes : Nat := 6

/-- DIGIT_PITCH of R5: the column increment between rendered glyphs. -/
abbrev digitPitch : Nat := 8

/-- PAGE_MAX of R5: the largest legal page. -/
def pageMax : Nat := 7

/-- COL_MAX of R5: the largest legal column. -/
def colMax : Nat := 131

/-- N_GLYPH of R5: the number of font table entries. -/
def nGlyph : Nat := 13

/-- XFER_MAX_LEN of R6 and R103: the longest transfer. -/
def xferMaxLen : Nat := 6

/-- The largest page a GLYPH or RENDER may name, since GLYPH addresses page + 1 (R70). -/
def glyphPageMax : Nat := 6

/-- The largest start column of a RENDER: start_column + 40 must be at most COL_MAX (R213). -/
def renderColMax : Nat := 91

/-- A legal request (R70, R99, R101). The value of a RENDER is checked against the parameter V by its meaning, not here. -/
def Instr.wellFormed : Instr → Bool
  | .reserved7 => false
  | .reservedEF _ => false
  | .xfer _ len _ => decide (1 ≤ len.toNat) && decide (len.toNat ≤ xferMaxLen)
  | .setpos page col => decide (page.toNat ≤ pageMax) && decide (col.toNat ≤ colMax)
  | .glyph idx page col =>
    decide (idx.toNat < nGlyph) && decide (page.toNat ≤ glyphPageMax) && decide (col.toNat ≤ colMax)
  | .render _ page col => decide (page.toNat ≤ glyphPageMax) && decide (col.toNat ≤ renderColMax)
  | .pinchg1 => true
  | .pinchg2 => true
  | .dlexp1 => true
  | .dlexp2 => true
  | .tmrother => true
  | .tick => true
  | .btnset _ _ => true
  | .invert => true
  | .cntstep => true
  | .wColhi _ => true
  | .wCollo _ => true
  | .wPage _ => true
  | .wInv _ => true
  | .wData _ => true

end Sys2Proof
end

