-- ==== Sys2Proof/Config.lean ====
section
/-! DEFINITION. The parameters the source leaves OPEN (spec/00_scope.md R6, spec/92_eei_decisions.md) and the free values.
The parameters are a record of plain data that State holds and nothing writes, so that a statement about every state holds
for every parameter value; the machine right after reset takes them from an opaque constant, so that nothing can be proved
about their values beyond the ranges the spec gives (assumption log 9). The free values (assumption log 10, 12, 13) are
opaque constants applied to a counter in State. -/

namespace Sys2Proof

/-- SER_BIT_ORDER (R6, R67): the order of the eight bits of a byte on the data-out line. DESIGN CHOICE: the spec leaves the
order OPEN and gives it no range (D17); that it is one of the two orders of a shift register, most or least significant bit
first, is the model's (assumption log 24). No rule depends on it. -/
inductive BitOrder where
  | msbFirst
  | lsbFirst
  deriving DecidableEq, Repr, Inhabited

/-- IRQ_PRIORITY (R6, R237) as a rank per source; a higher rank is entered first, and equal ranks in the order PINCHG1,
PINCHG2, DLEXP1, DLEXP2, TMROTHER. Every total order of the five sources is one of these. Read only where no move of the
environment names the source to enter (assumption log 3, 18). -/
structure IrqRank where
  pinchg1 : Nat
  pinchg2 : Nat
  dlexp1 : Nat
  dlexp2 : Nat
  tmrother : Nat
  deriving DecidableEq, Repr, Inhabited

/-- The OPEN parameters of R6. -/
structure Params where
  /-- CNT_WIDTH = W, a positive integer (D6). -/
  cntWidth : Nat
  /-- FIXED_DELAY, 1 .. 2^W - 1, one value for both channels (D7). -/
  fixedDelay : Nat
  /-- IRQ_ENTRY_CLEARS_GIE (D10). -/
  irqEntryClearsGie : Bool
  /-- IRQ_PRIORITY (D12). -/
  irqRank : IrqRank
  /-- CD_LEVEL_COMMAND (D16): the electrical level of CD in Command mode, `true` = high. -/
  cdLevelCommand : Bool
  /-- SER_BIT_ORDER (D17). -/
  serBitOrder : BitOrder
  /-- SER_LIVE (D19): whether an enabled step of the serial peripheral is always eventually taken. -/
  serLive : Bool
  /-- FONT (D23), as the 156 bytes at linear addresses 12*idx + off (R61). -/
  font : List Byte
  /-- VAL_WIDTH = V (D25); `none` is the unbounded counter the spec allows. -/
  valWidth : Option Nat
  /-- COUNTER_INIT (D37). -/
  counterInit : Int
  /-- COUNTER_STEP (D37). -/
  counterStep : Int
  /-- RENDER_PAGE, 0 .. 6 (D37). -/
  renderPage : BitVec 4
  /-- RENDER_COL, 0 .. 91 (D37). -/
  renderCol : BitVec 8
  deriving DecidableEq, Repr, Inhabited

/-- The number of bytes of the font table: 13 glyphs of 12 bytes (R5, R61). -/
def fontBytes : Nat := nGlyph * glyphBytes

/-- `v` is a signed integer of the value width V (R47): -2^(V-1) .. 2^(V-1) - 1, or any integer when V is unbounded. -/
def Params.holdsValue (p : Params) (v : Int) : Bool :=
  match p.valWidth with
  | none => true
  | some w => decide (-(2 ^ (w - 1) : Int) ≤ v) && decide (v < (2 ^ (w - 1) : Int))

/-- The ranges the spec gives the OPEN parameters (R6). -/
def Params.wf (p : Params) : Bool :=
  decide (0 < p.cntWidth) && decide (1 ≤ p.fixedDelay) && decide (p.fixedDelay < 2 ^ p.cntWidth)
    && decide (p.font.length = fontBytes) && decide (p.valWidth ≠ some 0)
    && p.holdsValue p.counterInit && p.holdsValue p.counterStep
    && decide (p.renderPage.toNat ≤ glyphPageMax) && decide (p.renderCol.toNat ≤ renderColMax)

/-- `v` brought into the range of the value width, unchanged if it is in it. -/
def Params.clampValue (width : Option Nat) (v : Int) : Int :=
  match width with
  | none => v
  | some w => Int.bmod v (2 ^ w)

/-- A record of parameters with every field brought into the range R6 gives it. Every record that meets the ranges is the
result of some record, so nothing but the ranges is assumed. -/
def Params.legal (r : Params) : Params :=
  { r with
    cntWidth := r.cntWidth + 1
    fixedDelay := r.fixedDelay % (2 ^ (r.cntWidth + 1) - 1) + 1
    font := (List.range fontBytes).map (fun k => r.font.getD k 0)
    valWidth := r.valWidth.map (· + 1)
    counterInit := Params.clampValue (r.valWidth.map (· + 1)) r.counterInit
    counterStep := Params.clampValue (r.valWidth.map (· + 1)) r.counterStep
    renderPage := BitVec.ofNat 4 (r.renderPage.toNat % 7)
    renderCol := BitVec.ofNat 8 (r.renderCol.toNat % 92) }

/-- The operands of a GLYPH in progress (R41: BIDX, BPAGE, BCOL) and the locals of a RENDER in progress (R41, R213): one copy
per context. -/
structure Locals where
  bidx : BitVec 4
  bpage : BitVec 4
  bcol : BitVec 8
  rsign : BitVec 4
  rbuf : List (BitVec 4)
  rpage : BitVec 4
  rcol : BitVec 8
  deriving DecidableEq, Repr, Inhabited

/-- The latches with the ranges of R41 (BIDX 0 .. 12, BPAGE 0 .. 6, BCOL 0 .. 131) and the same ranges for RENDER's locals. -/
def Locals.legal (l : Locals) : Locals :=
  { bidx := BitVec.ofNat 4 (l.bidx.toNat % 13)
    bpage := BitVec.ofNat 4 (l.bpage.toNat % 7)
    bcol := BitVec.ofNat 8 (l.bcol.toNat % 132)
    rsign := BitVec.ofNat 4 (l.rsign.toNat % 13)
    rbuf := (List.range 5).map (fun k => BitVec.ofNat 4 ((l.rbuf.getD k 0).toNat % 13))
    rpage := BitVec.ofNat 4 (l.rpage.toNat % 7)
    rcol := BitVec.ofNat 8 (l.rcol.toNat % 92) }

/-- What one free draw gives (R8 `draw(T)`): the byte received with a byte shifted out (R171), the levels the clock and data
lines are left at (R40), and the unspecified latches of a new activation record (R41). -/
structure Draw where
  rx : Byte
  sclk : Bool
  mosi : Bool
  locals : Locals
  deriving DecidableEq, Repr, Inhabited

/-- What the reset table of spec/10_state.md section 9 leaves unspecified. -/
structure ResetDraw where
  dlExp1 : Nat
  dlExp2 : Nat
  cnt : Nat
  savedGie : Bool
  cd : Mode
  xmode : Mode
  xlen : Nat
  xidx : Nat
  xbuf : Bytes6
  txbuf : Byte
  shreg : Byte
  rxbuf : Byte
  sclk : Bool
  mosi : Bool
  bl : Bool
  locals : Locals
  deriving DecidableEq, Repr, Inhabited

/-- The draw with every number brought into the range of its register (R260: "any value of their type"): W bits for CNT and
DL_EXP, 1 .. 6 for XLEN, 0 .. XLEN for XIDX (R35). -/
def ResetDraw.legal (p : Params) (u : ResetDraw) : ResetDraw :=
  { u with
    dlExp1 := u.dlExp1 % 2 ^ p.cntWidth
    dlExp2 := u.dlExp2 % 2 ^ p.cntWidth
    cnt := u.cnt % 2 ^ p.cntWidth
    xlen := u.xlen % 6 + 1
    xidx := u.xidx % (u.xlen % 6 + 2) }

/-- The implementation's choice of the OPEN parameters, before the ranges (assumption log 9). No body: nothing evaluates it. -/
opaque Config.openParams : Params

/-- The OPEN parameters of the machine right after reset: `Config.openParams` brought into the ranges of R6. -/
def Config.params : Params := Config.openParams.legal

/-- The free draws of a run (assumption log 12, 13). No body: nothing evaluates it. -/
opaque Config.draw : Nat → Draw

/-- The free values a reset leaves in the registers whose reset value the spec calls unspecified (assumption log 10). No body. -/
opaque Config.resetDraw : Nat → ResetDraw

end Sys2Proof
end

