-- ==== Sys2Proof/Decode.lean ====
section
/-! DEFINITION. The decoder of request records and wire bytes, total on any bytes and rejecting by name, and after it the
encoder. The selector numbers and operand fields are the spec's (spec/30_encoding.md R92 to R99); that a record is laid out
in bytes, and how, is the model's (the spec packs the fields into no word, R99): assumption log 6 and 7.

Layout of a record, byte by byte:
* byte 0: SEL in bits 3:0 and zeros above it for a request; the byte itself for a wire byte.
* byte 1: the space. 0 is a word of the opcode table as it stands (a byte below 0x10 is a selector, any other byte a wire
  byte), 1 is the space of wire command bytes, 2 the space of wire data bytes.
* byte 2: CHSEL in bit 0, LEVEL in bit 1, MODE in bit 2, LEN in bits 5:3.
* bytes 3 to 8: B0 to B5.
* byte 9: PAGE in bits 3:0, IDX in bits 7:4.
* byte 10: COL.
* bytes 11 and on: VAL, two's complement, least significant byte first, in as many bytes as the record carries.
A field that a request does not list is ignored (R99). -/

namespace Sys2Proof

/-- OPC_COLHI of R5: the base of command byte 0 of position-set (R92). -/
abbrev opcColhi : Byte := 0x10

/-- OPC_COLLO of R5: the base of command byte 1 of position-set (R93). -/
abbrev opcCollo : Byte := 0x00

/-- OPC_PAGE of R5: the base of command byte 2 of position-set (R94). -/
abbrev opcPage : Byte := 0xB0

/-- OPC_INV of R5: the base of the inversion command byte (R95). -/
abbrev opcInv : Byte := 0xA6

/-- Why a byte string is no request record. -/
inductive DecodeError where
  /-- Fewer than the eleven bytes every record has. -/
  | truncated
  /-- Byte 1 names none of the three spaces. -/
  | unknownSpace (space : Byte)
  /-- A byte of the wire command space that matches none of the four command formats (R102). -/
  | noWireFormat (b : Byte)
  deriving DecidableEq, Repr

/-- What the decoder answers. -/
inductive Decoded where
  | instr (i : Instr)
  | reject (e : DecodeError)
  deriving DecidableEq, Repr

/-- The fields of a request record (R99), before the selector is read. -/
structure Record where
  sel : Byte
  space : Byte
  flags : Byte
  b : Bytes6
  pageIdx : Byte
  col : Byte
  val : List Byte
  deriving DecidableEq, Repr

/-- The record a byte string holds, or nothing where it is shorter than a record. -/
def Record.ofBytes : List Byte → Option Record
  | sel :: space :: flags :: b0 :: b1 :: b2 :: b3 :: b4 :: b5 :: pageIdx :: col :: val =>
    some { sel, space, flags, b := { b0, b1, b2, b3, b4, b5 }, pageIdx, col, val }
  | _ => none

/-- The bytes of a record. -/
def Record.toBytes (r : Record) : List Byte :=
  r.sel :: r.space :: r.flags :: r.b.b0 :: r.b.b1 :: r.b.b2 :: r.b.b3 :: r.b.b4 :: r.b.b5 :: r.pageIdx :: r.col :: r.val

/-- CHSEL (R99): 0 selects channel 1, 1 selects channel 2. -/
def Record.chsel (r : Record) : Channel := if r.flags.getLsbD 0 then .two else .one

/-- LEVEL (R99): 1 = high = released. -/
def Record.level (r : Record) : Bool := r.flags.getLsbD 1

/-- MODE (R99): 0 = COMMAND, 1 = DATA. -/
def Record.mode (r : Record) : Mode := if r.flags.getLsbD 2 then .data else .command

/-- LEN (R99), 3 bits. -/
def Record.len (r : Record) : BitVec 3 := r.flags.extractLsb' 3 3

/-- PAGE (R99), 4 bits. -/
def Record.page (r : Record) : BitVec 4 := r.pageIdx.extractLsb' 0 4

/-- IDX (R99), 4 bits. -/
def Record.idx (r : Record) : BitVec 4 := r.pageIdx.extractLsb' 4 4

/-- The number a list of bytes holds, least significant byte first. -/
def bytesToNat : List Byte → Nat
  | [] => 0
  | b :: bs => b.toNat + 256 * bytesToNat bs

/-- Whether the top bit of the last byte of a two's complement number is set (an empty list is not negative). -/
def signOfBytes (bs : List Byte) : Bool :=
  match bs.getLast? with
  | none => false
  | some b => b.getLsbD 7

/-- VAL (R99): the bytes read as two's complement, least significant byte first; no bytes read as 0. -/
def bytesToInt (bs : List Byte) : Int :=
  if signOfBytes bs then - (bytesToNat (bs.map (~~~ ·)) : Int) - 1 else (bytesToNat bs : Int)

/-- The instruction of a selector (R98), the fields it lists taken from the record. Any selector has an instruction: 0x7, 0xE
and 0xF are the reserved rows of the table (R101). -/
def decodeSelector (r : Record) : Instr :=
  match (r.sel.extractLsb' 0 4).toNat with
  | 0x0 => .pinchg1
  | 0x1 => .pinchg2
  | 0x2 => .dlexp1
  | 0x3 => .dlexp2
  | 0x4 => .tmrother
  | 0x5 => .tick
  | 0x6 => .btnset r.chsel r.level
  | 0x7 => .reserved7
  | 0x8 => .xfer r.mode r.len r.b
  | 0x9 => .setpos r.page r.col
  | 0xA => .glyph r.idx r.page r.col
  | 0xB => .render (bytesToInt r.val) r.page r.col
  | 0xC => .invert
  | 0xD => .cntstep
  | 0xE => .reservedEF false
  | _ => .reservedEF true

/-- The wire command format a byte has (R92 to R95, R102): the bits above the field tell the four apart. -/
def decodeCommandByte (b : Byte) : Option Instr :=
  let low := b.extractLsb' 0 4
  if b &&& 0xF0 = opcColhi then some (.wColhi low)
  else if b &&& 0xF0 = opcCollo then some (.wCollo low)
  else if b &&& 0xF0 = opcPage then some (.wPage low)
  else if b &&& 0xFE = opcInv then some (.wInv (b.extractLsb' 0 1))
  else none

/-- A word of the opcode table as it stands: a selector below 0x10, else a wire byte, read as a command where it has the form
of one and as data otherwise (assumption log 6). -/
def decodeTableByte (r : Record) : Instr :=
  if r.sel.toNat < 0x10 then decodeSelector r else (decodeCommandByte r.sel).getD (.wData r.sel)

/-- The decoder: total on any bytes. -/
def decode (bytes : List Byte) : Decoded :=
  match Record.ofBytes bytes with
  | none => .reject .truncated
  | some r =>
    match r.space.toNat with
    | 0 => .instr (decodeTableByte r)
    | 1 =>
      match decodeCommandByte r.sel with
      | some i => .instr i
      | none => .reject (.noWireFormat r.sel)
    | 2 => .instr (.wData r.sel)
    | _ => .reject (.unknownSpace r.space)

/-- The least number of bytes of a record. -/
def recordBytes : Nat := 11

/-- The bytes of a word of the opcode table: bit 0 is the least significant bit of byte 0, every bit above the row's own bits
is 0, and the record is as long as the longest fixed part. -/
def bytesOfTableWord (nbits w : Nat) : List Byte :=
  (List.range (max recordBytes ((nbits + 7) / 8))).map (fun k => BitVec.ofNat 8 ((w % 2 ^ nbits) / 2 ^ (8 * k)))

/-- The instruction the decoder reads from a word of the opcode table. -/
def decodeTableWord (nbits w : Nat) : Option Instr :=
  match decode (bytesOfTableWord nbits w) with
  | .instr i => some i
  | .reject _ => none

/-! ## The encoder -/

/-- CHSEL, LEVEL, MODE and LEN at their places in byte 2. -/
def flagsByte (chsel : Channel) (level : Bool) (mode : Mode) (len : BitVec 3) : Byte :=
  0#2 ++ len ++ BitVec.ofBool (mode = .data) ++ BitVec.ofBool level ++ BitVec.ofBool (chsel = .two)

/-- The bytes of a natural number, least significant first. The number itself is fuel enough, since each byte divides by 256. -/
def natToBytesAux : Nat → Nat → List Byte
  | 0, _ => []
  | fuel + 1, n => if n = 0 then [] else BitVec.ofNat 8 n :: natToBytesAux fuel (n / 256)

/-- The bytes of a natural number, least significant first, none for 0. -/
def natToBytes (n : Nat) : List Byte := natToBytesAux n n

/-- The two's complement bytes of an integer: its magnitude's bytes (complemented when it is negative) and one byte of sign. -/
def intToBytes (v : Int) : List Byte :=
  if 0 ≤ v then natToBytes v.toNat ++ [0x00] else (natToBytes (-v - 1).toNat).map (~~~ ·) ++ [0xFF]

/-- A record with the given selector and every other field 0. -/
def Record.blank (sel space : Byte) : Record :=
  { sel, space, flags := 0, b := { b0 := 0, b1 := 0, b2 := 0, b3 := 0, b4 := 0, b5 := 0 }, pageIdx := 0, col := 0, val := [] }

/-- W_COLHI `0001cccc` (R92, R97): OPC_COLHI with the field OR-ed in. -/
def wireColhi (c : BitVec 4) : Byte := opcColhi ||| c.setWidth 8

/-- W_COLLO `0000cccc` (R93, R97): OPC_COLLO with the field OR-ed in. -/
def wireCollo (c : BitVec 4) : Byte := opcCollo ||| c.setWidth 8

/-- W_PAGE `1011pppp` (R94, R97): OPC_PAGE with the field OR-ed in. -/
def wirePage (p : BitVec 4) : Byte := opcPage ||| p.setWidth 8

/-- W_INV `1010011p` (R95, R97): OPC_INV with the polarity bit OR-ed in. -/
def wireInv (p : BitVec 1) : Byte := opcInv ||| p.setWidth 8

/-- The record of an instruction. -/
def encodeRecord : Instr → Record
  | .pinchg1 => .blank 0x0 0
  | .pinchg2 => .blank 0x1 0
  | .dlexp1 => .blank 0x2 0
  | .dlexp2 => .blank 0x3 0
  | .tmrother => .blank 0x4 0
  | .tick => .blank 0x5 0
  | .btnset ch level => { Record.blank 0x6 0 with flags := flagsByte ch level .command 0 }
  | .reserved7 => .blank 0x7 0
  | .xfer mode len b => { Record.blank 0x8 0 with flags := flagsByte .one false mode len, b }
  | .setpos page col => { Record.blank 0x9 0 with pageIdx := (0#4 ++ page : BitVec 8), col }
  | .glyph idx page col => { Record.blank 0xA 0 with pageIdx := (idx ++ page : BitVec 8), col }
  | .render val page col => { Record.blank 0xB 0 with pageIdx := (0#4 ++ page : BitVec 8), col, val := intToBytes val }
  | .invert => .blank 0xC 0
  | .cntstep => .blank 0xD 0
  | .reservedEF low => .blank (if low then 0xF else 0xE) 0
  | .wColhi c => .blank (wireColhi c) 1
  | .wCollo c => .blank (wireCollo c) 1
  | .wPage p => .blank (wirePage p) 1
  | .wInv p => .blank (wireInv p) 1
  | .wData d => .blank d 2

/-- The bytes of an instruction. -/
def encode (i : Instr) : List Byte := (encodeRecord i).toBytes

end Sys2Proof
end

