-- ==== Sys2Proof/Machine/State.lean ====
section
/-! DEFINITION. The state of the MPS04 block as plain data: every piece of state of spec/10_state.md (R20 to R48), the OPEN
parameters, and the model's own fields (the refusal names, the list of moves still to come, the counter of free draws); then
the state right after reset (R260, R261). -/

namespace Sys2Proof.Machine

/-- The edge direction a pin interrupt watches (R24): PRESS is high to low (encoded 1), RELEASE low to high (encoded 0). -/
inductive Edge where
  | press
  | release
  deriving DecidableEq, Repr, Inhabited

/-- The framer's phase register XPH (R22). -/
inductive XPhase where
  | idle
  | select
  | mode
  | byte
  | waitIdle
  | drain
  | deselect
  | restore
  deriving DecidableEq, Repr, Inhabited

/-- The glyph sequencer's phase register BPH (R22, R201). -/
inductive BPhase where
  | idle
  | posUp
  | dataUp
  | posLo
  | dataLo
  deriving DecidableEq, Repr, Inhabited

/-- The handler phase DPH[ch] of a debouncer (R22, R43). -/
inductive DPhase where
  | idle
  | act
  | fin
  deriving DecidableEq, Repr, Inhabited

/-- The chip-select line (R33): ASSERTED is driven low, DEASSERTED driven high. -/
inductive ChipSelect where
  | asserted
  | deasserted
  deriving DecidableEq, Repr, Inhabited

/-- The five interrupt sources (R230). -/
inductive Source where
  | pinchg1
  | pinchg2
  | dlexp1
  | dlexp2
  | tmrother
  deriving DecidableEq, Repr, Inhabited

/-- A wire event (R64). -/
inductive WireEvent where
  | cs (v : ChipSelect)
  | cd (m : Mode)
  | byte (m : Mode) (b : Byte)
  deriving DecidableEq, Repr

/-- The seven reasons a request is refused for (R70, R239). A refused request changes no register and sets REFUSED (R9): it is
a next state of the model, not a stop. -/
inductive RefuseReason where
  /-- column > 131 in SETPOS or GLYPH, start column > 91 in RENDER. -/
  | columnRange
  /-- page > 7 in SETPOS, page > 6 in GLYPH or RENDER. -/
  | pageRange
  /-- index > 12 in GLYPH. -/
  | glyphIndex
  /-- 0 or more than 6 bytes in XFER. -/
  | xferLength
  /-- XFER requested while XPH is not X_IDLE. -/
  | busBusy
  /-- The counter's sum or a negation that V bits do not hold. -/
  | valueRange
  /-- A reserved selector. -/
  | selector
  deriving DecidableEq, Repr

/-- One entry of the work a context has still to do (R44): an operation it has still to call, or the next step of one in
progress. Each is performed in one atomic step (assumption log 20). -/
inductive Task where
  /-- Call XFER: its first n bytes, phase 1 (R161). -/
  | xfer (m : Mode) (n : Nat) (b : Bytes6)
  /-- The framer's next phase, as XPH says (R162 to R168). -/
  | framer
  /-- Call SETPOS (R190). -/
  | setpos (page : BitVec 4) (col : BitVec 8)
  /-- Call GLYPH (R200). -/
  | glyph (idx : BitVec 4) (page : BitVec 4) (col : BitVec 8)
  /-- The glyph sequencer's next phase, as BPH says (R201). -/
  | glyphNext
  /-- Call RENDER (R213). -/
  | render (val : Int) (page : BitVec 4) (col : BitVec 8)
  /-- RENDER's glyphs from number k on (0 is the sign, 1 to 5 the digit buffer). -/
  | renderNext (k : Nat)
  /-- Call INVERT (R210). -/
  | invert
  /-- INVERT's call of XFER with POL as it then stands (R105, R210; assumption log 31). -/
  | sendPolarity
  /-- Call CNTSTEP (R212). -/
  | cntstep
  /-- CNTSTEP's call of RENDER with COUNTER as it then stands (R105, R212; assumption log 31). -/
  | renderCounter
  /-- The PINCHG handler's next step, as DPH says: DECIDE, the first sub-step of ACT, or FIN (R122 to R124). -/
  | pinHandler (ch : Channel)
  /-- The third sub-step of ACT (R123). -/
  | actArm (ch : Channel)
  /-- The one step of the DLEXP handler (R125). -/
  | dlexp (ch : Channel)
  /-- The one step of the TMROTHER handler (R144). -/
  | tmrother
  deriving DecidableEq, Repr

/-- A software context (R41, R44): the work it has still to do, next first, and its own copy of the glyph sequencer's phase,
the blit latches and RENDER's locals. -/
structure Ctx where
  work : List Task
  bph : BPhase
  loc : Locals
  deriving DecidableEq, Repr

/-- An activation record of the handler stack (R44, R234). -/
structure Activation where
  source : Source
  gieAtEntry : Bool
  ctx : Ctx
  deriving DecidableEq, Repr

/-- The state of one button channel (R23 to R29, R43). -/
structure Chan where
  /-- BTN[ch], the pin level: `true` = high = released (R23). -/
  btn : Bool
  /-- EDGE_SEL[ch] (R24). -/
  edgeSel : Edge
  /-- PIN_IFG[ch] (R25). -/
  pinIfg : Bool
  /-- SUPP[ch] (R26). -/
  supp : Bool
  /-- DL_VALID[ch] (R27). -/
  dlValid : Bool
  /-- DL_EXP[ch], W bits (R27). -/
  dlExp : Nat
  /-- CMP_IE[ch] (R28). -/
  cmpIe : Bool
  /-- CMP_IFG[ch] (R29). -/
  cmpIfg : Bool
  /-- DPH[ch] (R43). -/
  dph : DPhase
  /-- INSVC_PIN[ch] (R43). -/
  insvcPin : Bool
  /-- INSVC_DL[ch] (R43). -/
  insvcDl : Bool
  deriving DecidableEq, Repr

/-- One move of the environment or of an agent (R10, R243; assumption log 1, 2). The order of the moves is the order in which
the agents step; a move whose step is not enabled changes nothing (R9 STUCK, assumption log 4). -/
inductive Move where
  /-- A request record presented to the core layer: the event or operation runs to completion with nothing nested. -/
  | request (r : List Byte)
  /-- A request record presented to both layers: an operation is put before the running context, which then runs it step by
  step; an interrupt event asks for its delivery; TICK and BTNSET happen. -/
  | issue (r : List Byte)
  /-- The running context takes its next atomic step. -/
  | run
  /-- The peripheral's step SER_ACCEPT (R170). -/
  | serAccept
  /-- The peripheral's step SER_SHIFT (R171). -/
  | serShift
  /-- Entry of a deliverable source at this preemption point (R233, R234). -/
  | deliver (src : Source)
  /-- The environment sets TMR_OTHER_PEND (R45). -/
  | tmrOtherRequest
  /-- MAIN, idle, writes GIE (R266 (h), R277 (3)). -/
  | setGie (v : Bool)
  /-- The external initialisation sets the backlight line (R40, R266 (d)). -/
  | setBacklight (v : Bool)
  /-- The reset event (R260). -/
  | reset
  deriving DecidableEq, Repr

/-- The whole state. -/
structure State where
  /-- The OPEN parameters (R6); never written. -/
  par : Params
  /-- Channel 1. -/
  ch1 : Chan
  /-- Channel 2. -/
  ch2 : Chan
  /-- CNT, W bits (R30). -/
  cnt : Nat
  /-- GIE (R31). -/
  gie : Bool
  /-- SAVED_GIE (R32). -/
  savedGie : Bool
  /-- HS (R44), the NEWEST record first (the spec writes it newest last; assumption log 22). -/
  hs : List Activation
  /-- The normal context MAIN (R41, R44). -/
  main : Ctx
  /-- TMR_OTHER_PEND (R45). -/
  tmrOtherPend : Bool
  /-- CS (R33). -/
  cs : ChipSelect
  /-- CD (R34). -/
  cd : Mode
  /-- XPH (R22). -/
  xph : XPhase
  /-- XMODE (R35). -/
  xmode : Mode
  /-- XLEN (R35). -/
  xlen : Nat
  /-- XIDX (R35). -/
  xidx : Nat
  /-- XBUF[0 .. 5] (R35). -/
  xbuf : Bytes6
  /-- TXBUF (R36). -/
  txbuf : Byte
  /-- TXRDY (R36). -/
  txrdy : Bool
  /-- SHREG (R37). -/
  shreg : Byte
  /-- SHBUSY (R37). -/
  shbusy : Bool
  /-- RXBUF (R38). -/
  rxbuf : Byte
  /-- RXFULL (R38). -/
  rxfull : Bool
  /-- SCLK (R40). -/
  sclk : Bool
  /-- MOSI (R40). -/
  mosi : Bool
  /-- BL (R40). -/
  bl : Bool
  /-- POL (R46). -/
  pol : BitVec 1
  /-- COUNTER, V bits signed (R47). -/
  counter : Int
  /-- WIRE (R48, R64), oldest event first. -/
  wire : List WireEvent
  /-- ACTLOG (R48), oldest entry first. -/
  actlog : List Channel
  /-- REFUSED (R9, R48), sticky. -/
  refused : Bool
  /-- The model's own: the reasons of the refusals so far, oldest first (assumption log 5). -/
  reasons : List RefuseReason
  /-- The model's own: the moves still to come, next first (assumption log 2). -/
  port : List Move
  /-- The model's own: the number of free draws taken (assumption log 12). -/
  draws : Nat
  deriving DecidableEq, Repr

/-- Faults: none. The block raises no synchronous exception and has no cause codes (R239); STUCK is no stop of the machine
(R9, R173; assumption log 4). -/
inductive Fault
  deriving DecidableEq, Repr

/-- Refusals of the model. The spec's own REFUSE is not among them: it is a next state (R9; assumption log 5). -/
inductive Refusal where
  /-- An instruction without a meaning yet, raised by a refused arm of `exec` only. Safe: the model stops. -/
  | notModelled (mnemonic : String)
  /-- A byte string presented as a request that is no request record, raised by the fetch in Machine/Port.lean; the spec knows
  records only (R99), so it gives such a string no meaning. Safe: the model stops. -/
  | badRecord (e : DecodeError)
  deriving DecidableEq, Repr

/-- A context with nothing to do (R41: BPH = B_IDLE, the latches unspecified). -/
def Ctx.fresh (work : List Task) (l : Locals) : Ctx := { work, bph := .idle, loc := l.legal }

/-- A button channel right after reset (R260, spec/10_state.md section 9), its pin at the given level. -/
def Chan.reset (btn : Bool) (dlExp : Nat) : Chan :=
  { btn, edgeSel := .press, pinIfg := false, supp := false, dlValid := false, dlExp, cmpIe := false, cmpIfg := false
    dph := .idle, insvcPin := false, insvcDl := false }

/-- The reset state for given parameters and given values of what the reset table leaves unspecified (R260, R261). -/
def State.resetWith (p : Params) (u : ResetDraw) (btn1 btn2 : Bool) (port : List Move) (draws : Nat) : State :=
  { par := p
    ch1 := Chan.reset btn1 u.dlExp1
    ch2 := Chan.reset btn2 u.dlExp2
    cnt := u.cnt
    gie := false
    savedGie := u.savedGie
    hs := []
    main := Ctx.fresh [] u.locals
    tmrOtherPend := false
    cs := .deasserted
    cd := u.cd
    xph := .idle
    xmode := u.xmode
    xlen := u.xlen
    xidx := u.xidx
    xbuf := u.xbuf
    txbuf := u.txbuf
    txrdy := true
    shreg := u.shreg
    shbusy := false
    rxbuf := u.rxbuf
    rxfull := false
    sclk := u.sclk
    mosi := u.mosi
    bl := u.bl
    pol := 0
    counter := p.counterInit
    wire := []
    actlog := []
    refused := false
    reasons := []
    port
    draws }

/-- The machine right after reset (R260, R261): the OPEN parameters the implementation chose, both buttons released (R23), any
value in the registers the spec leaves unspecified (the reset took draw 0), no move listed. -/
def State.reset : State :=
  State.resetWith Config.params ((Config.resetDraw 0).legal Config.params) true true [] 1

end Sys2Proof.Machine
end

