-- ==== Sys2Proof/Machine/Ops.lean ====
section
/-! DEFINITION. The named operations over the state: one accessor per kind of register, the refusal, the wire trace, the work of
the running context, the font space, free draws, taking an interrupt (R234) and returning from one (R235). -/

namespace Sys2Proof.Machine

/-! ## Registers -/

/-- The registers of channel ch. -/
def State.chan (s : State) (ch : Channel) : Chan :=
  match ch with
  | .one => s.ch1
  | .two => s.ch2

/-- Write the registers of channel ch. -/
def State.setChan (ch : Channel) (c : Chan) (s : State) : State :=
  match ch with
  | .one => { s with ch1 := c }
  | .two => { s with ch2 := c }

/-- The running context: the newest record of HS, or MAIN when HS is empty (R44). -/
def State.running (s : State) : Ctx :=
  match s.hs with
  | [] => s.main
  | r :: _ => r.ctx

/-- Write the running context. -/
def State.setRunning (c : Ctx) (s : State) : State :=
  match s.hs with
  | [] => { s with main := c }
  | r :: rest => { s with hs := { r with ctx := c } :: rest }

/-- Write the work the running context has still to do. -/
def State.setWork (w : List Task) (s : State) : State := s.setRunning { s.running with work := w }

/-- Put tasks before the work of the running context: `call OP(args)` runs the operation to completion as a nested sequence of
steps of the same context and then continues (R8). -/
def State.pushTasks (ts : List Task) (s : State) : State := s.setWork (ts ++ s.running.work)

/-- Write the glyph sequencer's phase of the running context (R41). -/
def State.setBph (b : BPhase) (s : State) : State := s.setRunning { s.running with bph := b }

/-- Write the latches and locals of the running context (R41). -/
def State.setLocals (l : Locals) (s : State) : State := s.setRunning { s.running with loc := l }

/-! ## Refusal, wire, font, draws -/

/-- `refuse <Reason>` (R8, R9): no register changes, the sticky mark REFUSED is set; the model keeps the reason's name. -/
def State.refuse (r : RefuseReason) (s : State) : State := { s with refused := true, reasons := s.reasons ++ [r] }

/-- `WireEmit(ev)` (R64): append a wire event to the trace. -/
def State.wireEmit (e : WireEvent) (s : State) : State := { s with wire := s.wire ++ [e] }

/-- `FontRead(idx, off)` (R61): the byte at linear address 12*idx + off. -/
def fontRead (p : Params) (idx off : Nat) : Byte := p.font.getD (glyphBytes * idx + off) 0

/-- The next free draw (R8 `draw(T)`). -/
def State.nextDraw (s : State) : Draw := Config.draw s.draws

/-! ## Interrupts -/

/-- The channel and kind of a source, for the mark INSVC(s) (R234): for TMROTHER the record in HS is the mark. -/
def State.inService (src : Source) (s : State) : Bool :=
  match src with
  | .pinchg1 => s.ch1.insvcPin
  | .pinchg2 => s.ch2.insvcPin
  | .dlexp1 => s.ch1.insvcDl
  | .dlexp2 => s.ch2.insvcDl
  | .tmrother => s.hs.any (fun r => r.source = .tmrother)

/-- Write INSVC(s) (R234, R235). -/
def State.setInService (src : Source) (v : Bool) (s : State) : State :=
  match src with
  | .pinchg1 => { s with ch1 := { s.ch1 with insvcPin := v } }
  | .pinchg2 => { s with ch2 := { s.ch2 with insvcPin := v } }
  | .dlexp1 => { s with ch1 := { s.ch1 with insvcDl := v } }
  | .dlexp2 => { s with ch2 := { s.ch2 with insvcDl := v } }
  | .tmrother => s

/-- The first step of the handler of a source (R230, last column; R234). -/
def handlerTask : Source → Task
  | .pinchg1 => .pinHandler .one
  | .pinchg2 => .pinHandler .two
  | .dlexp1 => .dlexp .one
  | .dlexp2 => .dlexp .two
  | .tmrother => .tmrother

/-- Interrupt entry (R234), one atomic step: a new record with the value of GIE, the mark INSVC(s), and GIE cleared where
IRQ_ENTRY_CLEARS_GIE is true. No pending flag is cleared and the preempted context keeps its place. The new record's own
latches hold any value (R41; assumption log 13). -/
def State.enter (src : Source) (s : State) : State :=
  let entered := s.setInService src true
  { entered with
    hs := { source := src, gieAtEntry := s.gie, ctx := Ctx.fresh [handlerTask src] s.nextDraw.locals } :: s.hs
    gie := if s.par.irqEntryClearsGie then false else s.gie
    draws := s.draws + 1 }

/-- Handler return (R235), inside the last step of a handler: the newest record is dropped, its INSVC mark cleared, and GIE
written back where entry had cleared it. -/
def State.returnFromHandler (s : State) : State :=
  match s.hs with
  | [] => s
  | r :: rest =>
    let left := s.setInService r.source false
    { left with
      hs := rest
      gie := if s.par.irqEntryClearsGie then r.gieAtEntry else s.gie }

end Sys2Proof.Machine
end

