-- ==== Sys2Proof/Machine/Operands.lean ====
section
/-! DEFINITION. Every operand form: the assembly of the command bytes (R97), the operands of a glyph half (R201), the transfer
buffer (R35, R161), the range checks of the operations (R70), and the digit buffer of RENDER (R215). -/

namespace Sys2Proof.Machine

/-! ## Bytes of a transfer -/

/-- XBUF[i] (R35); beyond the six slots there is none, and the framer never asks. -/
def getByte (b : Bytes6) (i : Nat) : Byte :=
  match i with
  | 0 => b.b0
  | 1 => b.b1
  | 2 => b.b2
  | 3 => b.b3
  | 4 => b.b4
  | _ => b.b5

/-- `XBUF[0 .. n-1] <- B0 .. B(n-1)` (R161): the slots from n on keep what they held. -/
def loadBytes (n : Nat) (src old : Bytes6) : Bytes6 :=
  { b0 := if 0 < n then src.b0 else old.b0
    b1 := if 1 < n then src.b1 else old.b1
    b2 := if 2 < n then src.b2 else old.b2
    b3 := if 3 < n then src.b3 else old.b3
    b4 := if 4 < n then src.b4 else old.b4
    b5 := if 5 < n then src.b5 else old.b5 }

/-- A transfer's operands with one byte. -/
def oneByte (b : Byte) : Bytes6 := { b0 := b, b1 := 0, b2 := 0, b3 := 0, b4 := 0, b5 := 0 }

/-! ## Command bytes -/

/-- colHi = column[7:4] (R97). -/
def colHi (col : BitVec 8) : BitVec 4 := col.extractLsb' 4 4

/-- colLo = column[3:0] (R97). -/
def colLo (col : BitVec 8) : BitVec 4 := col.extractLsb' 0 4

/-- The three bytes of the position-set command (R105, R190): column high nibble, column low nibble, page. -/
def posBytes (page : BitVec 4) (col : BitVec 8) : Bytes6 :=
  { b0 := wireColhi (colHi col), b1 := wireCollo (colLo col), b2 := wirePage page, b3 := 0, b4 := 0, b5 := 0 }

/-- The six font bytes of a glyph half, from offset `off` on (R201). -/
def fontHalf (p : Params) (idx : BitVec 4) (off : Nat) : Bytes6 :=
  { b0 := fontRead p idx.toNat off
    b1 := fontRead p idx.toNat (off + 1)
    b2 := fontRead p idx.toNat (off + 2)
    b3 := fontRead p idx.toNat (off + 3)
    b4 := fontRead p idx.toNat (off + 4)
    b5 := fontRead p idx.toNat (off + 5) }

/-! ## Range checks, in the order the pseudocode writes them (R237) -/

/-- The checks of XFER (R160): the bus, then the length. R160's pseudocode writes neither check. DEDUCED: a busy bus names the
refusal where both fail, since V-XFER-4 of spec/95_test_vectors.md gives REFUSE_BUS_BUSY for any XFER in X_BYTE (assumption log
32). -/
def xferCheck (n : Nat) (s : State) : Option RefuseReason :=
  if s.xph ≠ .idle then some .busBusy
  else if n = 0 ∨ xferMaxLen < n then some .xferLength
  else none

/-- The checks of SETPOS (R190): the column first, then the page. -/
def setposCheck (page : BitVec 4) (col : BitVec 8) : Option RefuseReason :=
  if colMax < col.toNat then some .columnRange
  else if pageMax < page.toNat then some .pageRange
  else none

/-- The checks of GLYPH (R200): the index, then the page, then the column. -/
def glyphCheck (idx page : BitVec 4) (col : BitVec 8) : Option RefuseReason :=
  if nGlyph ≤ idx.toNat then some .glyphIndex
  else if glyphPageMax < page.toNat then some .pageRange
  else if colMax < col.toNat then some .columnRange
  else none

/-- A value that RENDER can draw (R70, R213, R217): -2^(V-1) + 1 .. 2^(V-1) - 1, any integer when V is unbounded. -/
def renderable (p : Params) (v : Int) : Bool :=
  match p.valWidth with
  | none => true
  | some w => decide (-(2 ^ (w - 1) : Int) < v) && decide (v < (2 ^ (w - 1) : Int))

/-- The checks of RENDER (R213): the page, then the start column, then the value. -/
def renderCheck (p : Params) (v : Int) (page : BitVec 4) (col : BitVec 8) : Option RefuseReason :=
  if glyphPageMax < page.toNat then some .pageRange
  else if renderColMax < col.toNat then some .columnRange
  else if renderable p v = false then some .valueRange
  else none

/-! ## The digit buffer -/

/-- GLYPH_PLUS (R5). -/
def glyphPlus : BitVec 4 := 10

/-- GLYPH_MINUS (R5). -/
def glyphMinus : BitVec 4 := 11

/-- GLYPH_BLANK (R5). -/
def glyphBlank : BitVec 4 := 12

/-- N_DIGITS (R5). -/
def nDigits : Nat := 5

/-- The least significant `slots` positions of the digit loop of R215, least significant first: the body runs before the test,
so the first position always holds a digit, and a position the loop does not reach keeps the blank. -/
def digitSlots : Nat → Nat → Bool → List (BitVec 4)
  | 0, _, _ => []
  | slots + 1, m, first =>
    if first || decide (m ≠ 0) then BitVec.ofNat 4 (m % 10) :: digitSlots slots (m / 10) false
    else glyphBlank :: digitSlots slots 0 false

/-- DIGITS(m) (R215): five glyph indices, buf[0] the most significant; digits beyond the fifth are dropped (R216). -/
def digits (m : Nat) : List (BitVec 4) := (digitSlots nDigits m true).reverse

/-- The sign glyph of RENDER (R213). -/
def signGlyph (v : Int) : BitVec 4 := if 0 ≤ v then glyphPlus else glyphMinus

/-- Glyph number k of a RENDER (R213): 0 is the sign, k + 1 is buf[k]. -/
def renderGlyph (l : Locals) (k : Nat) : BitVec 4 :=
  match k with
  | 0 => l.rsign
  | j + 1 => l.rbuf.getD j glyphBlank

/-- The column of glyph number k (R213): start_column + 8 * k, exact since it stays at or below 131 (R217). -/
def renderColumn (col : BitVec 8) (k : Nat) : BitVec 8 := BitVec.ofNat 8 (col.toNat + digitPitch * k)

end Sys2Proof.Machine
end

