-- ==== Sys2Proof/Machine/Flags.lean ====
section
/-! DEFINITION. Every flag computation: the edge detector (R120), the compare match (R140, R143), BUSY (R39), and which sources
are pending and deliverable (R230, R233, R236). -/

namespace Sys2Proof.Machine

/-- The edge detector (R120): the pin makes the transition that EDGE_SEL selects. -/
def watchedEdge (old level : Bool) (e : Edge) : Bool :=
  match e with
  | .press => old && !level
  | .release => !old && level

/-- The counter after one TICK (R140): CNT + 1 modulo 2^W. -/
def nextCount (s : State) : Nat := (s.cnt + 1) % 2 ^ s.par.cntWidth

/-- CMP_IFG of a channel after a TICK to `count` (R140, R143): set on equality with an armed expiry, else kept. -/
def matchFlag (count : Nat) (c : Chan) : Bool := c.cmpIfg || (c.dlValid && decide (count = c.dlExp))

/-- BUSY (R39): TXRDY = 0 or SHBUSY = 1. -/
def State.busy (s : State) : Bool := !s.txrdy || s.shbusy

/-- SER_ACCEPT is enabled (R170). -/
def State.serAcceptEnabled (s : State) : Bool := !s.txrdy && !s.shbusy

/-- A source is pending (R230). -/
def State.pending (src : Source) (s : State) : Bool :=
  match src with
  | .pinchg1 => s.ch1.pinIfg
  | .pinchg2 => s.ch2.pinIfg
  | .dlexp1 => s.ch1.cmpIfg && s.ch1.cmpIe
  | .dlexp2 => s.ch2.cmpIfg && s.ch2.cmpIe
  | .tmrother => s.tmrOtherPend

/-- A source is deliverable (R233): pending, GIE = 1, and not in service (R236). -/
def State.deliverable (src : Source) (s : State) : Bool := s.pending src && s.gie && !s.inService src

/-- The rank of a source (R237). -/
def rankOf (r : IrqRank) : Source → Nat
  | .pinchg1 => r.pinchg1
  | .pinchg2 => r.pinchg2
  | .dlexp1 => r.dlexp1
  | .dlexp2 => r.dlexp2
  | .tmrother => r.tmrother

/-- The five sources, in the order in which equal ranks are taken. -/
def allSources : List Source := [.pinchg1, .pinchg2, .dlexp1, .dlexp2, .tmrother]

/-- The deliverable source of the highest rank, the first of equals (R237). -/
def State.highestDeliverable (s : State) : Option Source :=
  allSources.foldl
    (fun best src =>
      if s.deliverable src then
        match best with
        | none => some src
        | some b => if rankOf s.par.irqRank b < rankOf s.par.irqRank src then some src else some b
      else best)
    none

/-- The electrical level of CS, `true` = high (R33). -/
def State.csLevel (s : State) : Bool :=
  match s.cs with
  | .asserted => false
  | .deasserted => true

/-- The electrical level of CD, `true` = high (R34, CD_LEVEL_COMMAND). -/
def State.cdLevel (s : State) : Bool :=
  match s.cd with
  | .command => s.par.cdLevelCommand
  | .data => !s.par.cdLevelCommand

/-- The eight bits of a byte in the order they leave on the data-out line (R67, SER_BIT_ORDER). -/
def serialBits (o : BitOrder) (b : Byte) : List Bool :=
  let lsbFirst := (List.range 8).map b.getLsbD
  match o with
  | .lsbFirst => lsbFirst
  | .msbFirst => lsbFirst.reverse

end Sys2Proof.Machine
end

