-- ==== Sys2Proof/Machine/Timer.lean ====
section
/-! DEFINITION. TimerDeadlineService (spec/41_deadline_timer.md): TICK, ARM, DISARM. -/

namespace Sys2Proof.Machine

/-- One TICK (R140): the counter, and the compare flags of both channels. -/
def State.tick (s : State) : State :=
  { s with
    cnt := nextCount s
    ch1 := { s.ch1 with cmpIfg := matchFlag (nextCount s) s.ch1 }
    ch2 := { s.ch2 with cmpIfg := matchFlag (nextCount s) s.ch2 } }

/-- ARM(ch) (R141): "now" is CNT at this step. -/
def State.arm (ch : Channel) (s : State) : State :=
  s.setChan ch
    { s.chan ch with
      dlExp := (s.cnt + s.par.fixedDelay) % 2 ^ s.par.cntWidth
      dlValid := true
      cmpIfg := false
      cmpIe := true }

/-- DISARM(ch) (R142): DL_EXP keeps its bits. -/
def State.disarm (ch : Channel) (s : State) : State :=
  s.setChan ch { s.chan ch with cmpIe := false, cmpIfg := false, dlValid := false }

end Sys2Proof.Machine
end

