-- ==== Sys2Proof/Machine/Bus.lean ====
section
/-! DEFINITION. The DisplayBus framer and the serial peripheral (spec/42_displaybus.md): the start of a transfer, its later
phases, and the peripheral's two steps. -/

namespace Sys2Proof.Machine

/-- XFER's start step (R160, R161): the checks, then phase 1; the later phases become work of the running context. -/
def State.startXfer (m : Mode) (n : Nat) (b : Bytes6) (s : State) : State :=
  match xferCheck n s with
  | some r => s.refuse r
  | none =>
    State.pushTasks [.framer]
      { s with
        savedGie := s.gie
        gie := false
        xmode := m
        xlen := n
        xbuf := loadBytes n b s.xbuf
        xidx := 0
        xph := .select }

/-- Phase 2 (R162). -/
def State.phaseSelect (s : State) : State :=
  { s.wireEmit (.cs .asserted) with cs := .asserted, xph := .mode }

/-- Phase 3 (R163). -/
def State.phaseMode (s : State) : State :=
  { s.wireEmit (.cd s.xmode) with cd := s.xmode, xph := .byte }

/-- Phase 4 (R164): enabled only when TXRDY = 1; while it is 0 the framer spins. -/
def State.phaseByte (s : State) : State :=
  if s.txrdy then
    { s with
      txbuf := getByte s.xbuf s.xidx
      txrdy := false
      xidx := s.xidx + 1
      xph := if s.xidx + 1 = s.xlen then .waitIdle else .byte }
  else s

/-- Phase 5 (R165): enabled only when BUSY = 0; until then the framer spins. -/
def State.phaseWaitIdle (s : State) : State :=
  if s.busy then s else { s with xph := .drain }

/-- Phase 6 (R166): RXBUF is read and thrown away, which clears RXFULL (R38, R72). -/
def State.phaseDrain (s : State) : State := { s with rxfull := false, xph := .deselect }

/-- Phase 7 (R167). -/
def State.phaseDeselect (s : State) : State :=
  { s.wireEmit (.cs .deasserted) with cs := .deasserted, xph := .restore }

/-- Phase 8 (R168): GIE exactly as it was saved. -/
def State.phaseRestore (s : State) : State := { s with gie := s.savedGie, xph := .idle }

/-- The framer's next phase, as XPH says; until phase 8 the framer stays the context's work. -/
def State.framerStep (s : State) : State :=
  match s.xph with
  | .idle => s
  | .select => s.phaseSelect.pushTasks [.framer]
  | .mode => s.phaseMode.pushTasks [.framer]
  | .byte => s.phaseByte.pushTasks [.framer]
  | .waitIdle => s.phaseWaitIdle.pushTasks [.framer]
  | .drain => s.phaseDrain.pushTasks [.framer]
  | .deselect => s.phaseDeselect.pushTasks [.framer]
  | .restore => s.phaseRestore

/-- SER_ACCEPT (R170), nothing where it is not enabled. -/
def State.serAccept (s : State) : State :=
  if s.serAcceptEnabled then { s with shreg := s.txbuf, shbusy := true, txrdy := true } else s

/-- SER_SHIFT (R171), nothing where it is not enabled. The byte event carries the value CD has at this step; the byte received
and the levels the clock and data lines are left at are free draws (assumption log 12). -/
def State.serShift (s : State) : State :=
  if s.shbusy then
    { s.wireEmit (.byte s.cd s.shreg) with
      rxbuf := s.nextDraw.rx
      rxfull := true
      shbusy := false
      sclk := s.nextDraw.sclk
      mosi := s.nextDraw.mosi
      draws := s.draws + 1 }
  else s

/-- Whether the peripheral has an enabled step. -/
def State.serEnabled (s : State) : Bool := s.serAcceptEnabled || s.shbusy

/-- The peripheral's enabled step, if any: SER_ACCEPT and SER_SHIFT are never enabled together. -/
def State.serStep (s : State) : State := if s.shbusy then s.serShift else s.serAccept

end Sys2Proof.Machine
end

