-- ==== Sys2Proof/Machine/Draw.lean ====
section
/-! DEFINITION. The cursor mapper (spec/43_position_mapper.md), the glyph sequencer (spec/44_glyph_blit.md) and the bound actions
with NumberRenderer (spec/45_bound_actions.md): each step of each, over the framer's start step. -/

namespace Sys2Proof.Machine

/-- SETPOS (R190): the range checks, then the three bytes as one COMMAND transfer. -/
def State.startSetpos (page : BitVec 4) (col : BitVec 8) (s : State) : State :=
  match setposCheck page col with
  | some r => s.refuse r
  | none => s.startXfer .command 3 (posBytes page col)

/-- GLYPH's start step (R200): the checks, the latches, phase B_POS_UP with its position-set of page + 1. -/
def State.startGlyph (idx page : BitVec 4) (col : BitVec 8) (s : State) : State :=
  match glyphCheck idx page col with
  | some r => s.refuse r
  | none =>
    ((s.setLocals { s.running.loc with bidx := idx, bpage := page, bcol := col }).setBph .posUp).pushTasks
      [.setpos (page + 1) col, .glyphNext]

/-- The glyph sequencer's later phases (R201), from the latches of the running context: the upper half's data, the position-set
of the page, the lower half's data, and the end. -/
def State.glyphStep (s : State) : State :=
  match s.running.bph with
  | .idle => s
  | .posUp => (s.setBph .dataUp).pushTasks [.xfer .data halfBytes (fontHalf s.par s.running.loc.bidx 0), .glyphNext]
  | .dataUp => (s.setBph .posLo).pushTasks [.setpos s.running.loc.bpage s.running.loc.bcol, .glyphNext]
  | .posLo => (s.setBph .dataLo).pushTasks [.xfer .data halfBytes (fontHalf s.par s.running.loc.bidx halfBytes), .glyphNext]
  | .dataLo => s.setBph .idle

/-- RENDER's start step (R213): the checks, then the sign and the digit buffer of the magnitude. -/
def State.startRender (v : Int) (page : BitVec 4) (col : BitVec 8) (s : State) : State :=
  match renderCheck s.par v page col with
  | some r => s.refuse r
  | none =>
    (s.setLocals
      { s.running.loc with rsign := signGlyph v, rbuf := digits v.natAbs, rpage := page, rcol := col }).pushTasks
      [.renderNext 0]

/-- RENDER's glyph number k and, after it, the ones that follow (R213). -/
def State.renderStep (k : Nat) (s : State) : State :=
  if k < nDigits + 1 then
    s.pushTasks
      [.glyph (renderGlyph s.running.loc k) s.running.loc.rpage (renderColumn s.running.loc.rcol k), .renderNext (k + 1)]
  else s

/-- INVERT's first step (R210): the toggle; the transfer is the next step. -/
def State.startInvert (s : State) : State := State.pushTasks [.sendPolarity] { s with pol := s.pol ^^^ 1 }

/-- INVERT's second step (R105, R210): XFER of `0xA6 | POL`. DEDUCED: POL is read at this call, so that the bit sent equals the
in-memory bit (R46) after an INVERT of another context between the two steps as well (assumption log 31). -/
def State.sendPolarity (s : State) : State := s.startXfer .command 1 (oneByte (wireInv s.pol))

/-- CNTSTEP's first step (R212): the sum, refused where V bits do not hold it or RENDER cannot negate it; RENDER is the next
step. -/
def State.startCntstep (s : State) : State :=
  if renderable s.par (s.counter + s.par.counterStep) then
    State.pushTasks [.renderCounter] { s with counter := s.counter + s.par.counterStep }
  else s.refuse .valueRange

/-- CNTSTEP's second step (R105, R212): RENDER of COUNTER. DEDUCED: COUNTER is read at this call (assumption log 31). -/
def State.renderCounter (s : State) : State := s.startRender s.counter s.par.renderPage s.par.renderCol

end Sys2Proof.Machine
end

