-- ==== Sys2Proof/Machine/Debounce.lean ====
section
/-! DEFINITION. ButtonDebouncer (spec/40_debounce.md): the edge detector and the steps of the two handlers, and the step of the
unrecognised timer source (spec/41_deadline_timer.md R144). -/

namespace Sys2Proof.Machine

/-- BTNSET (R120): the pin and the edge detector's reaction. -/
def State.setButton (ch : Channel) (level : Bool) (s : State) : State :=
  s.setChan ch
    { s.chan ch with
      btn := level
      pinIfg := (s.chan ch).pinIfg || watchedEdge (s.chan ch).btn level (s.chan ch).edgeSel }

/-- ACTION(ch) (R214): channel 1 steps the counter, channel 2 inverts the display. -/
def boundAction : Channel → Task
  | .one => .cntstep
  | .two => .invert

/-- A qualifying press (R121, R122): not suppressed, and the press edge is watched. -/
def State.qualifies (ch : Channel) (s : State) : Bool := !(s.chan ch).supp && decide ((s.chan ch).edgeSel = .press)

/-- DECIDE (R122): writes DPH only. -/
def State.pinDecide (ch : Channel) (s : State) : State :=
  s.setChan ch { s.chan ch with dph := if s.qualifies ch then .act else .fin }

/-- ACT's first sub-step (R123): the log; the bound action and the third sub-step follow in the handler's own context. -/
def State.actLog (ch : Channel) (s : State) : State :=
  State.pushTasks [boundAction ch, .actArm ch] { s with actlog := s.actlog ++ [ch] }

/-- ACT's third sub-step (R123): suppress, arm, and go to FIN, in one atomic step. -/
def State.suppressAndArm (ch : Channel) (s : State) : State :=
  let suppressed := (s.setChan ch { s.chan ch with supp := true }).arm ch
  suppressed.setChan ch { suppressed.chan ch with dph := .fin }

/-- The other edge (R124). -/
def flipEdge : Edge → Edge
  | .press => .release
  | .release => .press

/-- FIN (R124): flip the watched edge, clear the pin flag, and return from the handler. -/
def State.pinFinish (ch : Channel) (s : State) : State :=
  (s.setChan ch
    { s.chan ch with edgeSel := flipEdge (s.chan ch).edgeSel, pinIfg := false, dph := .idle }).returnFromHandler

/-- The PINCHG handler's next step, as DPH says (R121 to R124). -/
def State.pinStep (ch : Channel) (s : State) : State :=
  match (s.chan ch).dph with
  | .idle => (s.pinDecide ch).pushTasks [.pinHandler ch]
  | .act => s.actLog ch
  | .fin => s.pinFinish ch

/-- The DLEXP handler's one step (R125): clear the suppression, consume the deadline, return. -/
def State.deadlineExpired (ch : Channel) (s : State) : State :=
  ((s.setChan ch { s.chan ch with supp := false }).disarm ch).returnFromHandler

/-- The TMROTHER handler's one step (R144): the request is consumed and nothing else is written. -/
def State.otherTimer (s : State) : State := State.returnFromHandler { s with tmrOtherPend := false }

end Sys2Proof.Machine
end

