-- ==== Sys2Proof/Machine/Run.lean ====
section
/-! DEFINITION. How the agents of the block step: the running context's next atomic step, and the core layer's run of one event
or operation to completion (R8 `call`, R10), with nothing nested and the serial peripheral as live as SER_LIVE says
(assumption log 1). -/

namespace Sys2Proof.Machine

/-- Perform one task, already taken off the work of the running context: one atomic step. -/
def State.perform (t : Task) (s : State) : State :=
  match t with
  | .xfer m n b => s.startXfer m n b
  | .framer => s.framerStep
  | .setpos page col => s.startSetpos page col
  | .glyph idx page col => s.startGlyph idx page col
  | .glyphNext => s.glyphStep
  | .render v page col => s.startRender v page col
  | .renderNext k => s.renderStep k
  | .invert => s.startInvert
  | .sendPolarity => s.sendPolarity
  | .cntstep => s.startCntstep
  | .renderCounter => s.renderCounter
  | .pinHandler ch => s.pinStep ch
  | .actArm ch => (s.suppressAndArm ch).pushTasks [.pinHandler ch]
  | .dlexp ch => s.deadlineExpired ch
  | .tmrother => s.otherTimer

/-- The running context's next atomic step; a context with nothing to do has none (R245: MAIN is then idle). -/
def State.softStep (s : State) : State :=
  match s.running.work with
  | [] => s
  | t :: rest => (s.setWork rest).perform t

/-- One step of the core layer: the peripheral's, where it is live and has one, else the running context's. -/
def State.coreStep (s : State) : State :=
  if s.par.serLive && s.serEnabled then s.serStep else s.softStep

/-- The handler stack is `depth` records deep and the running context has `left` tasks left, or a record has been left. -/
def State.settled (depth left : Nat) (s : State) : Bool :=
  decide (s.hs.length < depth) || (decide (s.hs.length = depth) && decide (s.running.work.length ≤ left))

/-- Core-layer steps until the stack and the work are back at the given depth, or the fuel is used up. -/
def State.settle (depth left : Nat) : Nat → State → State
  | 0, s => s
  | fuel + 1, s => if s.settled depth left then s else State.settle depth left fuel s.coreStep

/-- Fuel for the longest run: a PINCHG1 handler with its 24 transfers takes fewer than 600 steps (R279; assumption log 21). -/
def coreFuel : Nat := 1024

/-- Run to completion what has been put before the running context of `s`, giving `t`. -/
def State.complete (s t : State) : State := State.settle s.hs.length s.running.work.length coreFuel t

/-- The core layer runs an operation in the running context (R8 `call OP(args)`, R240). -/
def State.callOp (t : Task) (s : State) : State := s.complete (s.pushTasks [t])

/-- The core layer runs an event's handler (R10, R121, R125, R144): entry, the handler's steps, its return. An event has no step
where its source is in service (R236) or a transfer is in flight (R71, R161); assumption log 14. -/
def State.inject (src : Source) (s : State) : State :=
  if s.inService src || decide (s.xph ≠ .idle) then s else s.complete (s.enter src)

end Sys2Proof.Machine
end

