-- ==== Sys2Proof/Machine/Events.lean ====
section
/-! DEFINITION. The meanings of the events (SEL 0x0 to 0x7 of spec/30_encoding.md R98), one definition per row of the opcode
table. An interrupt event is the core layer's (R10): its handler runs from entry to return. -/

namespace Sys2Proof.Machine

/-- PINCHG1 (R121): `on_pin_change(1)`. -/
def execPinchg1 (s : State) : Host.Outcome State Fault Refusal := .next (s.inject .pinchg1)

/-- PINCHG2 (R121): `on_pin_change(2)`. -/
def execPinchg2 (s : State) : Host.Outcome State Fault Refusal := .next (s.inject .pinchg2)

/-- DLEXP1 (R125): `on_deadline_expired(1)`. -/
def execDlexp1 (s : State) : Host.Outcome State Fault Refusal := .next (s.inject .dlexp1)

/-- DLEXP2 (R125): `on_deadline_expired(2)`. -/
def execDlexp2 (s : State) : Host.Outcome State Fault Refusal := .next (s.inject .dlexp2)

/-- TMROTHER (R144): the unrecognised timer source. -/
def execTmrother (s : State) : Host.Outcome State Fault Refusal := .next (s.inject .tmrother)

/-- TICK (R140). -/
def execTick (s : State) : Host.Outcome State Fault Refusal := .next s.tick

/-- BTNSET (R120). -/
def execBtnset (ch : Channel) (level : Bool) (s : State) : Host.Outcome State Fault Refusal := .next (s.setButton ch level)

/-- SEL 0x7 (R101): refused with REFUSE_SELECTOR. -/
def execReserved7 (s : State) : Host.Outcome State Fault Refusal := .next (s.refuse .selector)

/-- SEL 0xE and 0xF (R101): refused with REFUSE_SELECTOR, either of the two. -/
def execReservedEF (_low : Bool) (s : State) : Host.Outcome State Fault Refusal := .next (s.refuse .selector)

end Sys2Proof.Machine
end

