-- ==== Sys2Proof/Machine/Operations.lean ====
section
/-! DEFINITION. The meanings of the operations (SEL 0x8 to 0xD of spec/30_encoding.md R98), one definition per row of the opcode
table: the core layer runs the operation in the running context, to completion (R8 `call`, R10, R75: "every operation blocks the
caller until done"). Each operation's task is named, since a request issued to both layers puts the same task before the running
context (Machine/Port.lean). -/

namespace Sys2Proof.Machine

/-- The call an XFER request makes (R99, R160): the first LEN of the six byte fields. -/
def taskXfer (mode : Mode) (len : BitVec 3) (b : Bytes6) : Task := .xfer mode len.toNat b

/-- The call a SETPOS request makes (R190). -/
def taskSetpos (page : BitVec 4) (col : BitVec 8) : Task := .setpos page col

/-- The call a GLYPH request makes (R200). -/
def taskGlyph (idx page : BitVec 4) (col : BitVec 8) : Task := .glyph idx page col

/-- The call a RENDER request makes (R213). -/
def taskRender (val : Int) (page : BitVec 4) (col : BitVec 8) : Task := .render val page col

/-- XFER (R160): the eight phases. -/
def execXfer (mode : Mode) (len : BitVec 3) (b : Bytes6) (s : State) : Host.Outcome State Fault Refusal :=
  .next (s.callOp (taskXfer mode len b))

/-- SETPOS (R190). -/
def execSetpos (page : BitVec 4) (col : BitVec 8) (s : State) : Host.Outcome State Fault Refusal :=
  .next (s.callOp (taskSetpos page col))

/-- GLYPH (R200, R201). -/
def execGlyph (idx page : BitVec 4) (col : BitVec 8) (s : State) : Host.Outcome State Fault Refusal :=
  .next (s.callOp (taskGlyph idx page col))

/-- RENDER (R213, R215). -/
def execRender (val : Int) (page : BitVec 4) (col : BitVec 8) (s : State) : Host.Outcome State Fault Refusal :=
  .next (s.callOp (taskRender val page col))

/-- INVERT (R210). -/
def execInvert (s : State) : Host.Outcome State Fault Refusal := .next (s.callOp .invert)

/-- CNTSTEP (R212). -/
def execCntstep (s : State) : Host.Outcome State Fault Refusal := .next (s.callOp .cntstep)

end Sys2Proof.Machine
end

