-- ==== Sys2Proof/Machine/WireBytes.lean ====
section
/-! DEFINITION. The meanings of the wire-byte rows of the opcode table (spec/30_encoding.md R92 to R96), one definition per row.
"Only XFER touches the bus" (R105) and XFER sends any byte in either mode (R102), so a wire byte presented to the block is sent
as a transfer of that one byte in the mode its format is sent in (assumption log 8). -/

namespace Sys2Proof.Machine

/-- The call that sends one wire byte. -/
def taskWireByte (m : Mode) (b : Byte) : Task := .xfer m 1 (oneByte b)

/-- W_COLHI (R92), in COMMAND mode. -/
def execWColhi (c : BitVec 4) (s : State) : Host.Outcome State Fault Refusal :=
  .next (s.callOp (taskWireByte .command (wireColhi c)))

/-- W_COLLO (R93), in COMMAND mode. -/
def execWCollo (c : BitVec 4) (s : State) : Host.Outcome State Fault Refusal :=
  .next (s.callOp (taskWireByte .command (wireCollo c)))

/-- W_PAGE (R94), in COMMAND mode. -/
def execWPage (p : BitVec 4) (s : State) : Host.Outcome State Fault Refusal :=
  .next (s.callOp (taskWireByte .command (wirePage p)))

/-- W_INV (R95), in COMMAND mode. -/
def execWInv (p : BitVec 1) (s : State) : Host.Outcome State Fault Refusal :=
  .next (s.callOp (taskWireByte .command (wireInv p)))

/-- W_DATA (R96), in DATA mode, taken unchanged. -/
def execWData (d : Byte) (s : State) : Host.Outcome State Fault Refusal :=
  .next (s.callOp (taskWireByte .data d))

end Sys2Proof.Machine
end

