-- ==== Sys2Proof/Machine/Dispatch.lean ====
section
/-! DEFINITION. One arm per constructor of Instr, each a direct call of its meaning. -/

namespace Sys2Proof.Machine

-- One event, operation or wire byte of the core layer, run to completion (R10; assumption log 1).
def exec (i : Instr) (s : State) : Host.Outcome State Fault Refusal :=
  match i with
  | .pinchg1 => Sys2Proof.Machine.execPinchg1 s
  | .pinchg2 => Sys2Proof.Machine.execPinchg2 s
  | .dlexp1 => Sys2Proof.Machine.execDlexp1 s
  | .dlexp2 => Sys2Proof.Machine.execDlexp2 s
  | .tmrother => Sys2Proof.Machine.execTmrother s
  | .tick => Sys2Proof.Machine.execTick s
  | .btnset ch level => Sys2Proof.Machine.execBtnset ch level s
  | .reserved7 => Sys2Proof.Machine.execReserved7 s
  | .xfer mode len b => Sys2Proof.Machine.execXfer mode len b s
  | .setpos page col => Sys2Proof.Machine.execSetpos page col s
  | .glyph idx page col => Sys2Proof.Machine.execGlyph idx page col s
  | .render val page col => Sys2Proof.Machine.execRender val page col s
  | .invert => Sys2Proof.Machine.execInvert s
  | .cntstep => Sys2Proof.Machine.execCntstep s
  | .reservedEF low => Sys2Proof.Machine.execReservedEF low s
  | .wColhi c => Sys2Proof.Machine.execWColhi c s
  | .wCollo c => Sys2Proof.Machine.execWCollo c s
  | .wPage p => Sys2Proof.Machine.execWPage p s
  | .wInv p => Sys2Proof.Machine.execWInv p s
  | .wData d => Sys2Proof.Machine.execWData d s

end Sys2Proof.Machine
end

