-- ==== Sys2Proof/Machine/Port.lean ====
section
/-! DEFINITION. What a move of the environment or of an agent does (spec/00_scope.md R10, spec/60_exceptions.md R233, R243), the
fetch of a request record among them, and the move the block's own agents make when none is listed (assumption log 3). A move
whose step is not enabled changes nothing (R9 STUCK; assumption log 4). -/

namespace Sys2Proof.Machine

/-- The call an operation or wire byte makes in the running context; an event makes none. -/
def opTask : Instr → Option Task
  | .xfer mode len b => some (taskXfer mode len b)
  | .setpos page col => some (taskSetpos page col)
  | .glyph idx page col => some (taskGlyph idx page col)
  | .render val page col => some (taskRender val page col)
  | .invert => some .invert
  | .cntstep => some .cntstep
  | .wColhi c => some (taskWireByte .command (wireColhi c))
  | .wCollo c => some (taskWireByte .command (wireCollo c))
  | .wPage p => some (taskWireByte .command (wirePage p))
  | .wInv p => some (taskWireByte .command (wireInv p))
  | .wData d => some (taskWireByte .data d)
  | .pinchg1 => none
  | .pinchg2 => none
  | .dlexp1 => none
  | .dlexp2 => none
  | .tmrother => none
  | .tick => none
  | .btnset _ _ => none
  | .reserved7 => none
  | .reservedEF _ => none

/-- The interrupt source of an event (R98, R230); TICK and BTNSET are the environment's and no interrupts (R120, R140). -/
def eventSource : Instr → Option Source
  | .pinchg1 => some .pinchg1
  | .pinchg2 => some .pinchg2
  | .dlexp1 => some .dlexp1
  | .dlexp2 => some .dlexp2
  | .tmrother => some .tmrother
  | .tick => none
  | .btnset _ _ => none
  | .reserved7 => none
  | .reservedEF _ => none
  | .xfer _ _ _ => none
  | .setpos _ _ => none
  | .glyph _ _ _ => none
  | .render _ _ _ => none
  | .invert => none
  | .cntstep => none
  | .wColhi _ => none
  | .wCollo _ => none
  | .wPage _ => none
  | .wInv _ => none
  | .wData _ => none

/-- A step of a handler's own code, as against one of an operation the context has called. -/
def Task.isHandler : Task → Bool
  | .pinHandler _ => true
  | .actArm _ => true
  | .dlexp _ => true
  | .tmrother => true
  | .xfer _ _ _ => false
  | .framer => false
  | .setpos _ _ => false
  | .glyph _ _ _ => false
  | .glyphNext => false
  | .render _ _ _ => false
  | .renderNext _ => false
  | .invert => false
  | .sendPolarity => false
  | .cntstep => false
  | .renderCounter => false

/-- The running context is in no operation, so it may call one (R75: every operation blocks the caller until done; R240: either
context may). -/
def State.mayIssue (s : State) : Bool := s.running.work.all Task.isHandler

/-- MAIN runs and is idle (R245). -/
def State.mainIdle (s : State) : Bool := s.hs.isEmpty && s.main.work.isEmpty

/-- The fetch of a request record for the core layer: decode and execute. -/
def State.request (r : List Byte) (s : State) : Host.Outcome State Fault Refusal :=
  match decode r with
  | .instr i => exec i s
  | .reject e => .refused (.badRecord e)

/-- Delivery of a source at this preemption point, where it is deliverable (R233, R234). -/
def State.deliver (src : Source) (s : State) : State := if s.deliverable src then s.enter src else s

/-- A request issued to both layers: an operation becomes work of the running context where that context may call one, an
interrupt event asks for its delivery, and the other rows are as in the core layer. -/
def State.issueInstr (i : Instr) (s : State) : Host.Outcome State Fault Refusal :=
  match opTask i with
  | some t => .next (if s.mayIssue then s.pushTasks [t] else s)
  | none =>
    match eventSource i with
    | some src => .next (s.deliver src)
    | none => exec i s

/-- The fetch of a request record issued to both layers. -/
def State.issue (r : List Byte) (s : State) : Host.Outcome State Fault Refusal :=
  match decode r with
  | .instr i => s.issueInstr i
  | .reject e => .refused (.badRecord e)

/-- MAIN writes GIE (R266 (h), R277 (3)), while it is idle (assumption log 15). -/
def State.writeGie (v : Bool) (s : State) : State := if s.mainIdle then { s with gie := v } else s

/-- The reset event (R260): every register takes its value of the reset table, the unspecified ones any value; the pins keep the
level the buttons hold them at (R271), and the moves still to come stay (assumption log 11, 25). -/
def State.resetEvent (s : State) : State :=
  State.resetWith s.par ((Config.resetDraw s.draws).legal s.par) s.ch1.btn s.ch2.btn s.port (s.draws + 1)

/-- One move. -/
def State.move (m : Move) (s : State) : Host.Outcome State Fault Refusal :=
  match m with
  | .request r => s.request r
  | .issue r => s.issue r
  | .run => .next s.softStep
  | .serAccept => .next s.serAccept
  | .serShift => .next s.serShift
  | .deliver src => .next (s.deliver src)
  | .tmrOtherRequest => .next { s with tmrOtherPend := true }
  | .setGie v => .next (s.writeGie v)
  | .setBacklight v => .next { s with bl := v }
  | .reset => .next s.resetEvent

/-- The move made when none is listed (assumption log 3): the peripheral's where it is live and has one, else the entry of the
deliverable source of the highest rank (R237), else the running context's. It is one of the moves that may be listed. -/
def State.autoStep (s : State) : State :=
  if s.par.serLive && s.serEnabled then s.serStep
  else
    match s.highestDeliverable with
    | some src => s.enter src
    | none => s.softStep

end Sys2Proof.Machine
end

