-- ==== Sys2Proof/Machine/Step.lean ====
section
/-! DEFINITION. One step of the machine: the next move listed in PORT, or the block's own where none is listed; and where a word
of the opcode table is put so that the very next step runs it (assumption log 23). -/

namespace Sys2Proof.Machine

/-- One step: take the next move off PORT and make it; with PORT empty the block's own agents move. -/
def step (s : State) : Host.Outcome State Fault Refusal :=
  match s.port with
  | [] => .next s.autoStep
  | m :: rest => State.move m { s with port := rest }

/-- `s` with a word of the opcode table as the request the next step fetches. -/
def State.withFetchWord (s : State) (nbits w : Nat) : State :=
  { s with port := .request (bytesOfTableWord nbits w) :: s.port }

end Sys2Proof.Machine
end

