-- ==== Sys2Proof/Safety.lean ====
section
/-! DEFINITION. The terms in which statements speak of a run: frames on the wire (spec/20_memory.md R64), what a completed transfer
leaves behind (spec/42_displaybus.md R160), the frames of the operations (spec/30_encoding.md R105), when a run is over
(spec/00_scope.md R11), and the invariants of the machine. A safe run is one in which REFUSED stays 0 (R9) and the invariants
hold. -/

namespace Sys2Proof.Machine

/-! ## Frames -/

/-- The first n bytes of a transfer's operands, in ascending index (R65). -/
def bytesUpTo (n : Nat) (b : Bytes6) : List Byte := (List.range n).map (getByte b)

/-- The wire events of one frame (R64, R91): `C[b0 ..]` or `D[b0 ..]`. -/
def frame (m : Mode) (bs : List Byte) : List WireEvent :=
  .cs .asserted :: .cd m :: (bs.map (.byte m) ++ [.cs .deasserted])

/-- The frame of SETPOS (R190). -/
def posFrame (page : BitVec 4) (col : BitVec 8) : List WireEvent :=
  frame .command [wireColhi (colHi col), wireCollo (colLo col), wirePage page]

/-- The frame of one glyph half (R201): six font bytes from offset `off` on, in ascending address. -/
def halfFrame (p : Params) (idx : BitVec 4) (off : Nat) : List WireEvent :=
  frame .data ((List.range halfBytes).map (fun k => fontRead p idx.toNat (off + k)))

/-- The four frames of GLYPH, in order (R200, R202): the first half goes to page + 1. -/
def glyphFrames (p : Params) (idx page : BitVec 4) (col : BitVec 8) : List WireEvent :=
  posFrame (page + 1) col ++ halfFrame p idx 0 ++ posFrame page col ++ halfFrame p idx halfBytes

/-- The glyph indices RENDER draws, left to right (R213). -/
def renderIndices (v : Int) : List (BitVec 4) := signGlyph v :: digits v.natAbs

/-- The 24 frames of RENDER, in order (R213). -/
def renderFrames (p : Params) (v : Int) (page : BitVec 4) (col : BitVec 8) : List WireEvent :=
  (List.range 6).flatMap (fun k => glyphFrames p ((renderIndices v).getD k glyphBlank) page (renderColumn col k))

/-! ## A completed transfer -/

/-- The bus is ready for a transfer to complete: none is in flight, the peripheral is idle and it is live (R172). -/
def State.busReady (s : State) : Bool :=
  s.par.serLive && decide (s.xph = .idle) && s.txrdy && !s.shbusy

/-- `s` with the registers a transfer writes (R160), and the clock and data lines the peripheral drives, taken from `t`. -/
def State.withBusOf (s t : State) : State :=
  { s with
    savedGie := t.savedGie
    cs := t.cs
    cd := t.cd
    xmode := t.xmode
    xlen := t.xlen
    xidx := t.xidx
    xbuf := t.xbuf
    txbuf := t.txbuf
    shreg := t.shreg
    rxbuf := t.rxbuf
    rxfull := t.rxfull
    sclk := t.sclk
    mosi := t.mosi
    draws := t.draws }

/-- What a completed transfer of the first n bytes of `b` leaves (R160 to R172), from a ready bus. The last byte stays in the
transmit and shift registers; the receive register is drained; GIE is as it was; the frame is on the wire. -/
def afterXfer (m : Mode) (n : Nat) (b : Bytes6) (s : State) : State :=
  { s with
    savedGie := s.gie
    xmode := m
    xlen := n
    xidx := n
    xbuf := loadBytes n b s.xbuf
    cs := .deasserted
    cd := m
    txbuf := getByte b (n - 1)
    shreg := getByte b (n - 1)
    rxbuf := (Config.draw (s.draws + (n - 1))).rx
    rxfull := false
    sclk := (Config.draw (s.draws + (n - 1))).sclk
    mosi := (Config.draw (s.draws + (n - 1))).mosi
    draws := s.draws + n
    wire := s.wire ++ frame m (bytesUpTo n b) }

/-- What a completed GLYPH leaves (R200): its four transfers, its operands in the latches of the running context, B_IDLE. -/
def afterGlyph (idx page : BitVec 4) (col : BitVec 8) (s : State) : State :=
  let latched := s.setLocals { s.running.loc with bidx := idx, bpage := page, bcol := col }
  let posUp := afterXfer .command 3 (posBytes (page + 1) col) latched
  let dataUp := afterXfer .data halfBytes (fontHalf s.par idx 0) posUp
  let posLo := afterXfer .command 3 (posBytes page col) dataUp
  (afterXfer .data halfBytes (fontHalf s.par idx halfBytes) posLo).setBph .idle

/-- What a completed RENDER leaves (R213): its locals in the running context and its six GLYPHs, left to right. -/
def afterRender (v : Int) (page : BitVec 4) (col : BitVec 8) (s : State) : State :=
  (List.range 6).foldl
    (fun t k => afterGlyph ((renderIndices v).getD k glyphBlank) page (renderColumn col k) t)
    (s.setLocals { s.running.loc with rsign := signGlyph v, rbuf := digits v.natAbs, rpage := page, rcol := col })

/-! ## A completed handler -/

/-- The interrupt source of a channel's pin (R230). -/
def pinSource : Channel → Source
  | .one => .pinchg1
  | .two => .pinchg2

/-- The interrupt source of a channel's deadline (R230). -/
def deadlineSource : Channel → Source
  | .one => .dlexp1
  | .two => .dlexp2

/-- What a PINCHG leaves that does not act, paths (a) and (b) of R121: the watched edge flipped, the pin flag clear. (The free
draw is the discarded activation's, assumption log 13.) -/
def afterIdlePin (ch : Channel) (s : State) : State :=
  { s.setChan ch { s.chan ch with edgeSel := flipEdge (s.chan ch).edgeSel, pinIfg := false } with draws := s.draws + 1 }

/-- The state in which the handler of a press invokes its action (R123, R234): a new record on the stack, the press logged. -/
def actingIn (ch : Channel) (s : State) : State :=
  { (s.enter (pinSource ch)).setWork [] with actlog := s.actlog ++ [ch] }

/-- What a PINCHG leaves that acts, path (c) of R121, from what its action left: the channel suppressed, its deadline armed from
CNT, the watched edge flipped to RELEASE, the pin flag clear, and the stack and GIE as before the entry. -/
def afterPress (ch : Channel) (acted s : State) : State :=
  { acted.setChan ch
      { s.chan ch with
        supp := true
        dlValid := true
        dlExp := (s.cnt + s.par.fixedDelay) % 2 ^ s.par.cntWidth
        cmpIe := true
        cmpIfg := false
        edgeSel := .release
        pinIfg := false } with
    hs := s.hs
    gie := s.gie }

/-- What a DLEXP leaves (R125): the suppression cleared and the deadline consumed. (The free draw is the discarded activation's.) -/
def afterDeadline (ch : Channel) (s : State) : State :=
  { s.setChan ch { s.chan ch with supp := false, dlValid := false, cmpIe := false, cmpIfg := false } with
    draws := s.draws + 1 }

/-- An interrupt source can be injected in the core layer (assumption log 14): not in service (R236), no transfer in flight. -/
def State.injectable (src : Source) (s : State) : Bool := !s.inService src && decide (s.xph = .idle)

/-- The peripheral has no step of its own to take, so that nothing but the running context moves. -/
def State.peripheralStill (s : State) : Bool := !(s.par.serLive && s.serEnabled)

/-! ## Runs -/

/-- A run is over (R11): the handler stack is empty, no transfer is in flight, MAIN has no work left, and nothing is both
pending and deliverable. A hang is not an end: a transfer is then in flight. -/
def State.quiescent (s : State) : Bool :=
  s.hs.isEmpty && decide (s.xph = .idle) && s.main.work.isEmpty && allSources.all (fun src => !s.deliverable src)

/-- The framer has no enabled step (R164, R165): it is STUCK. -/
def State.framerStuck (s : State) : Bool :=
  (decide (s.xph = .byte) && !s.txrdy) || (decide (s.xph = .waitIdle) && s.busy)

/-- The framer's and the peripheral's steps a transfer in flight has still to take (R279: n + 7 framer steps and 2n peripheral
steps in all, the start step among them). -/
def State.transferLeft (s : State) : Nat :=
  let peripheral := (if s.txrdy then 0 else 2) + (if s.shbusy then 1 else 0)
  match s.xph with
  | .idle => 0
  | .select => 6 + 3 * s.xlen
  | .mode => 5 + 3 * s.xlen
  | .byte => 4 + 3 * (s.xlen - s.xidx) + peripheral
  | .waitIdle => 4 + peripheral
  | .drain => 3
  | .deselect => 2
  | .restore => 1

/-- The event of a channel's pin (R121). -/
def pinchg : Channel → Instr
  | .one => .pinchg1
  | .two => .pinchg2

/-- The event of a channel's deadline (R125). -/
def dlexp : Channel → Instr
  | .one => .dlexp1
  | .two => .dlexp2

/-- Instructions run one after the other in the core layer, stopping where one stops. -/
def execAll : List Instr → State → Host.Outcome State Fault Refusal
  | [], s => .next s
  | i :: is, s =>
    match exec i s with
    | .next t => execAll is t
    | .fault r => .fault r
    | .refused r => .refused r

/-- n TICKs. -/
def State.ticks : Nat → State → State
  | 0, s => s
  | n + 1, s => State.ticks n s.tick

/-! ## Invariants -/

/-- Where the wire stands in the grammar of frames (R64, R91): between frames, chip-select asserted, inside a frame of the given
mode with the given bytes so far, or in no frame at all. -/
inductive Scan where
  | closed
  | selected
  | inside (m : Mode) (bs : List Byte)
  | broken
  deriving DecidableEq, Repr

/-- One wire event in the grammar of frames. A frame has 1 to XFER_MAX_LEN bytes, all in the frame's mode. -/
def Scan.next (sc : Scan) (e : WireEvent) : Scan :=
  match sc, e with
  | .closed, .cs .asserted => .selected
  | .selected, .cd m => .inside m []
  | .inside m bs, .byte m' b => if m' = m then .inside m (bs ++ [b]) else .broken
  | .inside _ bs, .cs .deasserted => if 1 ≤ bs.length ∧ bs.length ≤ xferMaxLen then .closed else .broken
  | _, _ => .broken

/-- The whole wire in the grammar of frames. -/
def scanWire (w : List WireEvent) : Scan := w.foldl Scan.next .closed

/-- The number of bytes loaded and not yet on the wire. -/
def State.inFlight (s : State) : Nat := (if s.txrdy then 0 else 1) + (if s.shbusy then 1 else 0)

/-- The peripheral is idle (BUSY = 0, R39). -/
def State.serIdle (s : State) : Bool := s.txrdy && !s.shbusy

/-- The bytes of the transfer in flight are on the wire, in the shifter and in the transmit buffer, in this order, and XIDX
counts them (R172). -/
def State.bytesInOrder (s : State) : Prop :=
  ∃ k, k + s.inFlight = s.xidx ∧ scanWire s.wire = .inside s.cd (bytesUpTo k s.xbuf) ∧
    (s.shbusy = true → s.shreg = getByte s.xbuf k) ∧
    (s.txrdy = false → s.txbuf = getByte s.xbuf (k + (if s.shbusy then 1 else 0)))

/-- The operands of the transfer in flight are legal (R35). -/
def State.lenLegal (s : State) : Prop := 1 ≤ s.xlen ∧ s.xlen ≤ xferMaxLen

/-- The wire is a sequence of whole frames and, while a transfer is in flight, the part of its frame that its phase says, with
its bytes in order; CS is asserted exactly inside a frame; outside phases X_BYTE and X_WAITIDLE the peripheral is idle
(R33, R52, R64, R71, R76, R91, R172). -/
def State.frameInv (s : State) : Prop :=
  match s.xph with
  | .idle => scanWire s.wire = .closed ∧ s.cs = .deasserted ∧ s.serIdle = true
  | .select => scanWire s.wire = .closed ∧ s.cs = .deasserted ∧ s.serIdle = true ∧ s.lenLegal ∧ s.xidx = 0
  | .mode => scanWire s.wire = .selected ∧ s.cs = .asserted ∧ s.serIdle = true ∧ s.lenLegal ∧ s.xidx = 0
  | .byte => s.bytesInOrder ∧ s.cs = .asserted ∧ s.cd = s.xmode ∧ s.lenLegal ∧ s.xidx < s.xlen
  | .waitIdle => s.bytesInOrder ∧ s.cs = .asserted ∧ s.cd = s.xmode ∧ s.lenLegal ∧ s.xidx = s.xlen
  | .drain | .deselect =>
    scanWire s.wire = .inside s.xmode (bytesUpTo s.xlen s.xbuf) ∧ s.cs = .asserted ∧ s.cd = s.xmode ∧ s.serIdle = true ∧
      s.lenLegal ∧ s.xidx = s.xlen
  | .restore => scanWire s.wire = .closed ∧ s.cs = .deasserted ∧ s.serIdle = true

/-- The suppression flag, the valid bit and the compare enable of a channel are always equal (R126), a compare flag is set only
over an armed deadline (R143), and a handler acts only while no deadline is armed (R122, R126). -/
def Chan.armedTogether (c : Chan) : Prop :=
  c.dlValid = c.supp ∧ c.cmpIe = c.supp ∧ (c.cmpIfg = true → c.dlValid = true) ∧ (c.dph = .act → c.supp = false)

/-- Both channels meet the channel invariant (R126). -/
def State.chanInv (s : State) : Prop := s.ch1.armedTogether ∧ s.ch2.armedTogether

/-- Each source stands at most once in HS, and INSVC marks exactly the sources that stand there (R236, R238). -/
def State.stackInv (s : State) : Prop :=
  (s.hs.map (·.source)).Nodup ∧ ∀ src, s.inService src = true ↔ src ∈ s.hs.map (·.source)

/-- The steps of a handler's own code come last in a context's work: what is before them is an operation the handler called. -/
def handlerStepsLast (w : List Task) : Prop := ∀ t ∈ w.dropLast, t.isHandler = false

/-- GIE is 0 in every phase of the framer but X_IDLE (R52, R71, R174), and the transfer belongs to the running context, so that
nothing returns from a handler or is idle inside it (R75). -/
def State.maskInv (s : State) : Prop :=
  (s.xph ≠ .idle → s.gie = false ∧ Task.framer ∈ s.running.work) ∧
    (∀ t ∈ s.main.work, t.isHandler = false) ∧ (∀ r ∈ s.hs, handlerStepsLast r.ctx.work)

/-- The OPEN parameters are in the ranges of R6, and the registers of W and V bits hold values of W and V bits (R27, R30,
R47). -/
def State.rangeInv (s : State) : Prop :=
  s.par.wf = true ∧ s.cnt < 2 ^ s.par.cntWidth ∧ s.ch1.dlExp < 2 ^ s.par.cntWidth ∧ s.ch2.dlExp < 2 ^ s.par.cntWidth ∧
    s.par.holdsValue s.counter = true

/-- The decided rows of the reset table (R261, spec/10_state.md section 9). -/
def State.atReset (s : State) : Prop :=
  s.hs = [] ∧ s.main.work = [] ∧ s.main.bph = .idle ∧ s.xph = .idle ∧ s.cs = .deasserted ∧ s.gie = false ∧
    s.txrdy = true ∧ s.shbusy = false ∧ s.rxfull = false ∧ s.tmrOtherPend = false ∧ s.pol = 0 ∧
    s.counter = s.par.counterInit ∧ s.wire = [] ∧ s.actlog = [] ∧ s.refused = false ∧
    (∀ ch, (s.chan ch).edgeSel = .press ∧ (s.chan ch).pinIfg = false ∧ (s.chan ch).supp = false ∧
      (s.chan ch).dlValid = false ∧ (s.chan ch).cmpIe = false ∧ (s.chan ch).cmpIfg = false ∧ (s.chan ch).dph = .idle ∧
      (s.chan ch).insvcPin = false ∧ (s.chan ch).insvcDl = false) ∧
    (∀ src, s.pending src = false ∧ s.deliverable src = false)

/-- Handlers do not nest (R238, IRQ_ENTRY_CLEARS_GIE true): at most one record, entered with GIE = 1 and run with GIE = 0, which
a transfer inside it gives back. -/
def State.neverNested (s : State) : Prop :=
  s.hs = [] ∨ ∃ r, s.hs = [r] ∧ r.gieAtEntry = true ∧ s.gie = false ∧ (s.xph ≠ .idle → s.savedGie = false)

end Sys2Proof.Machine
end

