-- ==== Sys2Proof/Certificates/Slice0/Obligations.lean ====
section
/-! DEFINITION. The statements for the provers. Each docstring names the rules of spec/ it formalises. A statement that rests on a
choice of the model says so and names the log entry. -/

open Sys2Proof Sys2Proof.Machine

/-! ## Reset and invariants -/

/-- R261: where the machine stands after reset, for every choice of what the reset table leaves unspecified. -/
def Obligations.ResetLeavesTheResetTable : Prop :=
  (∀ p u b1 b2 port draws, (State.resetWith p u b1 b2 port draws).atReset) ∧ State.reset.atReset

/-- R260: the reset event reaches the reset table from any state, takes the unspecified registers within their ranges, and
carries nothing over from before it but the parameters, the pins' levels and the environment's moves and draws (which are no
state of the block). -/
def Obligations.ResetForgetsTheRun : Prop :=
  ∀ s t : State,
    s.resetEvent.atReset ∧ s.resetEvent.cnt < 2 ^ s.par.cntWidth ∧ s.resetEvent.ch1.dlExp < 2 ^ s.par.cntWidth ∧
      s.resetEvent.ch2.dlExp < 2 ^ s.par.cntWidth ∧ 1 ≤ s.resetEvent.xlen ∧ s.resetEvent.xlen ≤ 6 ∧
      s.resetEvent.xidx ≤ s.resetEvent.xlen ∧
      (t.par = s.par → t.ch1.btn = s.ch1.btn → t.ch2.btn = s.ch2.btn → t.port = s.port → t.draws = s.draws →
        t.resetEvent = s.resetEvent)

/-- The invariants below hold right after reset, and both buttons are released (assumption log 11). -/
def Obligations.InvariantsStandAfterReset : Prop :=
  State.reset.frameInv ∧ State.reset.chanInv ∧ State.reset.stackInv ∧ State.reset.maskInv ∧ State.reset.rangeInv ∧
    State.reset.neverNested ∧ State.reset.ch1.btn = true ∧ State.reset.ch2.btn = true

/-- R52, R64, R71, R76, R172, for every step of every agent in any order: the wire is a sequence of whole frames and, while a
transfer is in flight, the part of its frame that the framer's phase says; no byte is lost, doubled or out of order. -/
def Obligations.StepKeepsWholeFrames : Prop :=
  ∀ s s' : State, s.frameInv → step s = .next s' → s'.frameInv

/-- R126, for every step: suppression, valid bit and compare enable are equal, a compare flag stands only over an armed deadline,
and a handler acts only while no deadline is armed. -/
def Obligations.StepKeepsChannelsArmedTogether : Prop :=
  ∀ s s' : State, s.chanInv → step s = .next s' → s'.chanInv

/-- R236, R238, for every step: each source stands in HS at most once, INSVC marks exactly the sources that stand there, and HS
has at most five records. -/
def Obligations.StepKeepsSourcesOnceInTheStack : Prop :=
  ∀ s s' : State, s.stackInv → step s = .next s' → s'.stackInv ∧ s'.hs.length ≤ 5

/-- R52, R71, R77, for every step: GIE is 0 in every phase but X_IDLE, and the transfer is the running context's. -/
def Obligations.StepKeepsTransfersMasked : Prop :=
  ∀ s s' : State, s.maskInv → step s = .next s' → s'.maskInv

/-- R27, R30, R47, for every step: the parameters stay in the ranges of R6, CNT and DL_EXP in W bits, COUNTER in V bits. -/
def Obligations.StepKeepsRegisterRanges : Prop :=
  ∀ s s' : State, s.rangeInv → step s = .next s' → s'.rangeInv

/-- R238: where IRQ_ENTRY_CLEARS_GIE is true handlers never nest. The moves are those of both layers; a request injected into the
core layer has no interrupt delivery behind it (assumption log 14) and is left out. -/
def Obligations.HandlersNeverNestWhenEntryClearsGie : Prop :=
  ∀ s s' : State, s.par.irqEntryClearsGie = true → s.maskInv → s.neverNested → (∀ r, s.port.head? ≠ some (.request r)) →
    step s = .next s' → s'.neverNested ∧ s'.hs.length ≤ 1

/-! ## Encoding and fetch -/

/-- Every instruction, with every operand at every value, survives encoding and decoding. (The layout of a record is the model's,
assumption log 6 and 7.) -/
def Obligations.DecodeOfEncodeIsTheInstruction : Prop :=
  ∀ i : Instr, decode (encode i) = .instr i

/-- Words whose selectors and wire bytes are written out from the spec's encodings (R92 to R96, R98) decode to what they stand
for. Where the fields stand in the bytes, and the space tag, are the model's (assumption log 6), the one byte of VAL is (assumption
log 7), and so is the name under which the last word is rejected (assumption log 28). -/
def Obligations.HandWrittenWordsDecode : Prop :=
  decode [0x00, 0, 0, 0, 0, 0, 0, 0, 0, 0, 0] = .instr .pinchg1 ∧
  decode [0x05, 0, 0, 0, 0, 0, 0, 0, 0, 0, 0] = .instr .tick ∧
  decode [0x06, 0, 0x03, 0, 0, 0, 0, 0, 0, 0, 0] = .instr (.btnset .two true) ∧
  decode [0x08, 0, 0x1C, 0x18, 0x03, 0xB3, 0, 0, 0, 0, 0] =
    .instr (.xfer .data 3 { b0 := 0x18, b1 := 0x03, b2 := 0xB3, b3 := 0, b4 := 0, b5 := 0 }) ∧
  decode [0x09, 0, 0, 0, 0, 0, 0, 0, 0, 0x03, 0x83] = .instr (.setpos 3 131) ∧
  decode [0x0A, 0, 0, 0, 0, 0, 0, 0, 0, 0xA2, 0x28] = .instr (.glyph 10 2 40) ∧
  decode [0x0B, 0, 0, 0, 0, 0, 0, 0, 0, 0x02, 0x28, 0xFB] = .instr (.render (-5) 2 40) ∧
  decode [0x18, 1, 0, 0, 0, 0, 0, 0, 0, 0, 0] = .instr (.wColhi 8) ∧
  decode [0x03, 1, 0, 0, 0, 0, 0, 0, 0, 0, 0] = .instr (.wCollo 3) ∧
  decode [0xB7, 1, 0, 0, 0, 0, 0, 0, 0, 0, 0] = .instr (.wPage 7) ∧
  decode [0xA7, 1, 0, 0, 0, 0, 0, 0, 0, 0, 0] = .instr (.wInv 1) ∧
  decode [0xA7, 2, 0, 0, 0, 0, 0, 0, 0, 0, 0] = .instr (.wData 0xA7) ∧
  decode [0xA8, 1, 0, 0, 0, 0, 0, 0, 0, 0, 0] = .reject (.noWireFormat 0xA8)

/-- A step makes the next listed move. A request record runs the instruction it decodes to: in the core layer; issued to both
layers, where the running context may call an operation only while it is in none (R75, R240; assumption log 16) and a call not
made changes nothing (assumption log 4); placed by the host (assumption log 23). A byte string that is no record is refused
(assumption log 28). The running context, the peripheral, an interrupt entry and reset step as the other moves say, and with no
move listed the block steps by itself (assumption log 2, 3). The moves that write one register are the statement
EnvironmentWritesGieTimerRequestAndBacklight. -/
def Obligations.StepRunsTheDecodedInstruction : Prop :=
  (∀ s r rest i, s.port = .request r :: rest → decode r = .instr i → step s = exec i { s with port := rest }) ∧
  (∀ s r rest i t, s.port = .issue r :: rest → decode r = .instr i → opTask i = some t →
    step s = .next (if s.mayIssue then State.pushTasks [t] { s with port := rest } else { s with port := rest })) ∧
  (∀ s r rest i src, s.port = .issue r :: rest → decode r = .instr i → eventSource i = some src →
    step s = .next (State.deliver src { s with port := rest })) ∧
  (∀ s r rest i, s.port = .issue r :: rest → decode r = .instr i → opTask i = none → eventSource i = none →
    step s = exec i { s with port := rest }) ∧
  (∀ s nbits w i, decodeTableWord nbits w = some i → step (State.withFetchWord s nbits w) = exec i s) ∧
  (∀ s r rest e, s.port = .request r :: rest ∨ s.port = .issue r :: rest → decode r = .reject e →
    step s = .refused (.badRecord e)) ∧
  (∀ s rest, s.port = .run :: rest → step s = .next (State.softStep { s with port := rest })) ∧
  (∀ s rest, s.port = .serAccept :: rest → step s = .next (State.serAccept { s with port := rest })) ∧
  (∀ s rest, s.port = .serShift :: rest → step s = .next (State.serShift { s with port := rest })) ∧
  (∀ s src rest, s.port = .deliver src :: rest → step s = .next (State.deliver src { s with port := rest })) ∧
  (∀ s rest, s.port = .reset :: rest → step s = .next (State.resetEvent { s with port := rest })) ∧
  (∀ s, s.port = [] → step s = .next s.autoStep)

/-- R45, R266 (d) and (h), R277 (3): MAIN's own write of GIE (the move `setGie`) takes effect only while MAIN is idle (assumption
log 15), so that boot software takes the block out of reset with GIE = 1; the environment sets the unrecognised timer source's
request and the initialisation sets the backlight line at any time (assumption log 17, 30); each of the three moves changes nothing
else. (R31: a transfer's phases 1 and 8, interrupt entry and handler return write GIE as well, of which other statements speak.) -/
def Obligations.EnvironmentWritesGieTimerRequestAndBacklight : Prop :=
  (∀ s v rest, s.port = .setGie v :: rest →
    (s.hs = [] → s.main.work = [] → step s = .next { s with port := rest, gie := v }) ∧
    (s.hs ≠ [] ∨ s.main.work ≠ [] → step s = .next { s with port := rest })) ∧
  (∀ p u b1 b2 rest draws, ∃ t,
    step (State.resetWith p u b1 b2 (.setGie true :: rest) draws) = .next t ∧ t.gie = true ∧ t.port = rest) ∧
  (∀ s rest, s.port = .tmrOtherRequest :: rest → step s = .next { s with port := rest, tmrOtherPend := true }) ∧
  (∀ s v rest, s.port = .setBacklight v :: rest → step s = .next { s with port := rest, bl := v })

/-! ## Timer -/

/-- R140: TICK, whole: the counter wraps on W bits and the comparison is made on the wrapped value, for both channels. -/
def Obligations.TickCountsAndCompares : Prop :=
  ∀ s : State, exec .tick s = .next
    { s with
      cnt := (s.cnt + 1) % 2 ^ s.par.cntWidth
      ch1 := { s.ch1 with
        cmpIfg := s.ch1.cmpIfg || (s.ch1.dlValid && decide ((s.cnt + 1) % 2 ^ s.par.cntWidth = s.ch1.dlExp)) }
      ch2 := { s.ch2 with
        cmpIfg := s.ch2.cmpIfg || (s.ch2.dlValid && decide ((s.cnt + 1) % 2 ^ s.par.cntWidth = s.ch2.dlExp)) } }

/-- R141, R143, R145: ARM writes four registers of its channel and nothing else; a deadline armed at any count matches on exactly
the FIXED_DELAY-th TICK, wrap-around or not, and its flag then stays. -/
def Obligations.ArmedDeadlineMatchesOnTheDelayedTick : Prop :=
  ∀ (s : State) (ch : Channel),
    s.arm ch =
      s.setChan ch
        { s.chan ch with
          dlExp := (s.cnt + s.par.fixedDelay) % 2 ^ s.par.cntWidth
          dlValid := true
          cmpIfg := false
          cmpIe := true } ∧
    ∀ n : Nat, s.cnt < 2 ^ s.par.cntWidth → 1 ≤ s.par.fixedDelay → s.par.fixedDelay < 2 ^ s.par.cntWidth →
      ((((s.arm ch).ticks n).chan ch).cmpIfg = true ↔ s.par.fixedDelay ≤ n)

/-- R142: DISARM writes three zeros and nothing else, and after it no match is taken however often the counter passes. -/
def Obligations.DisarmedDeadlineNeverMatches : Prop :=
  ∀ (s : State) (ch : Channel) (n : Nat),
    s.disarm ch = s.setChan ch { s.chan ch with cmpIe := false, cmpIfg := false, dlValid := false } ∧
    (((s.disarm ch).ticks n).chan ch).cmpIfg = false ∧
    (((s.disarm ch).ticks n).chan ch).dlExp = (s.chan ch).dlExp ∧
    ((s.disarm ch).ticks n).pending (deadlineSource ch) = false

/-- R144: the unrecognised timer source is consumed and nothing else is written. (The free draw is the discarded activation's,
assumption log 13.) -/
def Obligations.OtherTimerSourceIsIgnored : Prop :=
  ∀ s : State, s.injectable .tmrother = true → s.peripheralStill = true →
    exec .tmrother s = .next { s with tmrOtherPend := false, draws := s.draws + 1 }

/-- R30: CNT is written by TICK only, and by nothing else of the block, whatever agent steps. -/
def Obligations.CounterClockIsWrittenByTickOnly : Prop :=
  ∀ s s' : State, s.port.head? ≠ some .reset →
    (∀ r, s.port.head? = some (.request r) ∨ s.port.head? = some (.issue r) → decode r ≠ .instr .tick) →
    step s = .next s' → s'.cnt = s.cnt

/-! ## Buttons and handlers -/

/-- R120: BTNSET, whole: the pin takes the level, the flag is set by the watched transition and never cleared, nothing else
changes. -/
def Obligations.ButtonChangeSetsTheFlagOnTheWatchedEdge : Prop :=
  ∀ (s : State) (ch : Channel) (level : Bool), ∃ flag,
    exec (.btnset ch level) s = .next (s.setChan ch { s.chan ch with btn := level, pinIfg := flag }) ∧
    (flag = true ↔ (s.chan ch).pinIfg = true ∨
      ((s.chan ch).btn = true ∧ level = false ∧ (s.chan ch).edgeSel = .press) ∨
      ((s.chan ch).btn = false ∧ level = true ∧ (s.chan ch).edgeSel = .release))

/-- R271: a press that began before reset is not noticed, its release is not either, and the next press is noticed and finds the
channel watching for a press and not suppressed, so that its PINCHG acts (R121 (c)). -/
def Obligations.ButtonHeldAtResetIsLost : Prop :=
  ∀ (p : Params) (u : ResetDraw) (ch : Channel) (b : Bool) (port : List Move) (draws : Nat),
    let s := match ch with
      | .one => State.resetWith p u false b port draws
      | .two => State.resetWith p u b false port draws
    (s.chan ch).pinIfg = false ∧ (s.chan ch).edgeSel = .press ∧
    ∃ t v, exec (.btnset ch true) s = .next t ∧ (t.chan ch).pinIfg = false ∧
      exec (.btnset ch false) t = .next v ∧ (v.chan ch).pinIfg = true ∧ (v.chan ch).supp = false ∧
      (v.chan ch).edgeSel = .press ∧ (v.chan ch).dph = .idle ∧ v.inService (pinSource ch) = false

/-- R125: DLEXP, whole: suppression cleared, deadline consumed, nothing else written, whether or not one was armed; and the event
is delivered only while its flag and its enable are 1. (The free draw is the discarded activation's, assumption log 13; that an
injected event needs neither is the model's, assumption log 14.) -/
def Obligations.DeadlineExpiredClearsSuppression : Prop :=
  ∀ (s : State) (ch : Channel),
    (s.injectable (deadlineSource ch) = true → s.peripheralStill = true →
      exec (dlexp ch) s = .next
        { s.setChan ch { s.chan ch with supp := false, dlValid := false, cmpIe := false, cmpIfg := false } with
          draws := s.draws + 1 }) ∧
    (s.deliverable (deadlineSource ch) = true → (s.chan ch).cmpIfg = true ∧ (s.chan ch).cmpIe = true)

/-- R121 paths (a) and (b), R127 (2): a suppressed PINCHG, and one that watches a release, act on nothing, flip the watched edge
and clear the pin flag. (The free draw is the discarded activation's, assumption log 13.) -/
def Obligations.PinChangeWithoutActionFlipsTheEdge : Prop :=
  ∀ (s : State) (ch : Channel), s.injectable (pinSource ch) = true → s.peripheralStill = true → (s.chan ch).dph = .idle →
    (s.chan ch).supp = true ∨ (s.chan ch).edgeSel = .release →
    exec (pinchg ch) s = .next
      { s.setChan ch { s.chan ch with edgeSel := flipEdge (s.chan ch).edgeSel, pinIfg := false } with draws := s.draws + 1 }

/-- R121 path (c) on channel 2 (R123, R210): the press is logged, the polarity toggled and sent, the channel suppressed, its
deadline armed from CNT, the edge flipped, the flag cleared; only the registers of the bus are left to the frame. -/
def Obligations.PolarityPressInvertsAndSuppresses : Prop :=
  ∀ s : State, s.injectable .pinchg2 = true → s.busReady = true → s.ch2.dph = .idle → s.ch2.supp = false →
    s.ch2.edgeSel = .press →
    ∃ t, exec .pinchg2 s = .next t ∧ t.cs = .deasserted ∧ t.cd = .command ∧ t.rxfull = false ∧
      t = { s.withBusOf t with
        pol := s.pol ^^^ 1
        actlog := s.actlog ++ [.two]
        wire := s.wire ++ frame .command [0xA6 ||| (s.pol ^^^ 1).setWidth 8]
        ch2 := { s.ch2 with
          supp := true
          dlValid := true
          dlExp := (s.cnt + s.par.fixedDelay) % 2 ^ s.par.cntWidth
          cmpIe := true
          cmpIfg := false
          edgeSel := .release
          pinIfg := false } }

/-- R121 path (c) on channel 1 (R123, R212), where the sum fits: the press is logged, the counter stepped and drawn, the channel
suppressed and armed as on channel 2. The latches of MAIN and of every older record are as before (R41). -/
def Obligations.CounterPressStepsAndSuppresses : Prop :=
  ∀ s : State, s.injectable .pinchg1 = true → s.busReady = true → s.par.wf = true → s.ch1.dph = .idle → s.ch1.supp = false →
    s.ch1.edgeSel = .press → renderable s.par (s.counter + s.par.counterStep) = true →
    ∃ t, exec .pinchg1 s = .next t ∧ t.cs = .deasserted ∧ t.cd = .data ∧ t.rxfull = false ∧
      t = { s.withBusOf t with
        counter := s.counter + s.par.counterStep
        actlog := s.actlog ++ [.one]
        wire := s.wire ++ renderFrames s.par (s.counter + s.par.counterStep) s.par.renderPage s.par.renderCol
        ch1 := { s.ch1 with
          supp := true
          dlValid := true
          dlExp := (s.cnt + s.par.fixedDelay) % 2 ^ s.par.cntWidth
          cmpIe := true
          cmpIfg := false
          edgeSel := .release
          pinIfg := false } }

/-- The press whose sum does not fit: the action is refused (R212) and, by the model's choice (assumption log 5), the handler goes
on after the refusal. -/
def Obligations.RefusedCounterPressStillSuppresses : Prop :=
  ∀ s : State, s.injectable .pinchg1 = true → s.peripheralStill = true → s.ch1.dph = .idle → s.ch1.supp = false →
    s.ch1.edgeSel = .press → renderable s.par (s.counter + s.par.counterStep) = false →
    exec .pinchg1 s = .next
      { s with
        refused := true
        reasons := s.reasons ++ [.valueRange]
        actlog := s.actlog ++ [.one]
        draws := s.draws + 1
        ch1 := { s.ch1 with
          supp := true
          dlValid := true
          dlExp := (s.cnt + s.par.fixedDelay) % 2 ^ s.par.cntWidth
          cmpIe := true
          cmpIfg := false
          edgeSel := .release
          pinIfg := false } }

/-- The model's choice (assumption log 14): an event is not injected while its source is in service (R236) or a transfer is in
flight (R71). -/
def Obligations.EventIsNotInjectedOverItself : Prop :=
  ∀ (s : State) (ch : Channel),
    (s.injectable (pinSource ch) = false → exec (pinchg ch) s = .next s) ∧
    (s.injectable (deadlineSource ch) = false → exec (dlexp ch) s = .next s) ∧
    (s.injectable .tmrother = false → exec .tmrother s = .next s)

/-- R122, R123, R124: the handler's own steps, one by one, in the context of its activation: DECIDE writes DPH only; ACT logs the
press and then has the action to call; after the action one step suppresses, arms and goes to FIN; FIN flips, clears and
returns. -/
def Obligations.PinHandlerDecidesActsAndFinishes : Prop :=
  (∀ (s : State) (ch : Channel) rest, s.running.work = .pinHandler ch :: rest → (s.chan ch).dph = .idle →
    s.softStep = s.setChan ch
      { s.chan ch with
        dph := if (s.chan ch).supp = false ∧ (s.chan ch).edgeSel = .press then .act else .fin }) ∧
  (∀ (s : State) (ch : Channel) rest, s.running.work = .pinHandler ch :: rest → (s.chan ch).dph = .act →
    s.softStep =
      State.setWork ((match ch with | .one => .cntstep | .two => .invert) :: .actArm ch :: rest)
        { s with actlog := s.actlog ++ [ch] }) ∧
  (∀ (s : State) (ch : Channel) rest, s.running.work = .actArm ch :: rest →
    s.softStep =
      State.setWork (.pinHandler ch :: rest)
        (s.setChan ch
          { s.chan ch with
            supp := true
            dlExp := (s.cnt + s.par.fixedDelay) % 2 ^ s.par.cntWidth
            dlValid := true
            cmpIfg := false
            cmpIe := true
            dph := .fin })) ∧
  (∀ (s : State) (ch : Channel) rest, s.running.work = .pinHandler ch :: rest → (s.chan ch).dph = .fin →
    s.softStep =
      State.returnFromHandler (State.setWork rest
        (s.setChan ch
          { s.chan ch with
            edgeSel := if (s.chan ch).edgeSel = .release then .press else .release
            pinIfg := false
            dph := .idle })))

/-- R127 (1): after a qualifying press, however many PINCHG of the channel follow before its DLEXP, with TICKs and pin changes
among them, exactly one action has executed and the channel is still suppressed. (A press of channel 1 whose sum is refused, of
which R9 lets nothing be claimed, is left to the statement RefusedCounterPressStillSuppresses.) -/
def Obligations.OnePressActsOnce : Prop :=
  ∀ (s : State) (ch : Channel) (is : List Instr),
    (∀ i ∈ is, i = pinchg ch ∨ i = .tick ∨ ∃ c l, i = .btnset c l) →
    s.par.wf = true → s.busReady = true → s.injectable (pinSource ch) = true → (s.chan ch).dph = .idle →
    (s.chan ch).supp = false → (s.chan ch).edgeSel = .press →
    (ch = .one → renderable s.par (s.counter + s.par.counterStep) = true) →
    ∃ t, execAll (pinchg ch :: is) s = .next t ∧ t.actlog = s.actlog ++ [ch] ∧ (t.chan ch).supp = true ∧
      (t.chan ch).edgeSel = if is.count (pinchg ch) % 2 = 0 then .release else .press

/-- R127 (3): after DLEXP the next PINCHG that finds PRESS acts. (On channel 1 where its sum is not refused, as above.) -/
def Obligations.DeadlineLetsTheNextPressAct : Prop :=
  ∀ (s : State) (ch : Channel), s.par.wf = true → s.busReady = true → s.injectable (pinSource ch) = true →
    s.injectable (deadlineSource ch) = true → (s.chan ch).dph = .idle → (s.chan ch).edgeSel = .press →
    (ch = .one → renderable s.par (s.counter + s.par.counterStep) = true) →
    ∃ t u, exec (dlexp ch) s = .next t ∧ (t.chan ch).supp = false ∧ exec (pinchg ch) t = .next u ∧
      u.actlog = s.actlog ++ [ch] ∧ (u.chan ch).supp = true

/-- R51: an event of one channel neither reads nor writes the other's registers. (It takes in a press of channel 1 whose sum is
refused, where what the handler goes on to do is the model's choice, assumption log 5.) -/
def Obligations.ChannelsDoNotInterfere : Prop :=
  ∀ (s : State) (ch ch' : Channel) (c : Chan) (i : Instr), ch' ≠ ch → i = pinchg ch ∨ i = dlexp ch →
    s.par.wf = true → s.busReady = true → s.injectable (pinSource ch) = true → s.injectable (deadlineSource ch) = true →
    (s.chan ch).dph = .idle →
    ∃ t, exec i s = .next t ∧ t.chan ch' = s.chan ch' ∧ exec i (s.setChan ch' c) = .next (t.setChan ch' c)

/-! ## Transfers -/

/-- R160, R172: XFER completes from a ready bus, sends exactly one frame of its first LEN bytes in its mode, leaves the peripheral
idle, RXBUF drained and GIE as it was, and changes nothing but the registers of the bus. (The core layer lets the live peripheral
step first, assumption log 1 and 19; statement StepKeepsWholeFrames speaks of every order of the steps.) -/
def Obligations.TransferSendsOneFrame : Prop :=
  ∀ (s : State) (m : Mode) (len : BitVec 3) (b : Bytes6), s.busReady = true → 1 ≤ len.toNat → len.toNat ≤ 6 →
    ∃ t, exec (.xfer m len b) s = .next t ∧
      t = { s.withBusOf t with wire := s.wire ++ frame m ((List.range len.toNat).map (getByte b)) } ∧
      t.cs = .deasserted ∧ t.cd = m ∧ t.xmode = m ∧ t.xlen = len.toNat ∧ t.xidx = len.toNat ∧
      t.xbuf = loadBytes len.toNat b s.xbuf ∧ t.savedGie = s.gie ∧ t.txbuf = getByte b (len.toNat - 1) ∧
      t.shreg = getByte b (len.toNat - 1) ∧ t.rxfull = false ∧ t.draws = s.draws + len.toNat

/-- R70, R99, R101, R160, R190, R237: a reserved selector, an operand out of range and a transfer on a busy bus are refused by the
reason of the first check that fails, and a refused request changes nothing but the sticky mark (and the model's list of reasons,
assumption log 5). That a busy bus names the refusal of a transfer of an illegal length is DEDUCED (assumption log 32), and that a
wire byte is a transfer is the model's (assumption log 8). -/
def Obligations.IllegalRequestsAreRefused : Prop :=
  ∀ s : State, s.peripheralStill = true →
    let refusal := fun r : RefuseReason =>
      (.next { s with refused := true, reasons := s.reasons ++ [r] } : Host.Outcome State Fault Refusal)
    exec .reserved7 s = refusal .selector ∧ (∀ low, exec (.reservedEF low) s = refusal .selector) ∧
    (∀ m b, s.xph = .idle → exec (.xfer m 0 b) s = refusal .xferLength ∧ exec (.xfer m 7 b) s = refusal .xferLength) ∧
    (∀ m len b, s.xph ≠ .idle → exec (.xfer m len b) s = refusal .busBusy) ∧
    (∀ page col, page.toNat ≤ 7 → col.toNat ≤ 131 → s.xph ≠ .idle → exec (.setpos page col) s = refusal .busBusy) ∧
    (s.xph ≠ .idle →
      (∀ c, exec (.wColhi c) s = refusal .busBusy ∧ exec (.wCollo c) s = refusal .busBusy) ∧
      (∀ p, exec (.wPage p) s = refusal .busBusy) ∧ (∀ p, exec (.wInv p) s = refusal .busBusy) ∧
      (∀ d, exec (.wData d) s = refusal .busBusy)) ∧
    (∀ page col, 131 < col.toNat → exec (.setpos page col) s = refusal .columnRange) ∧
    (∀ page col, col.toNat ≤ 131 → 7 < page.toNat → exec (.setpos page col) s = refusal .pageRange) ∧
    (∀ idx page col, 12 < idx.toNat → exec (.glyph idx page col) s = refusal .glyphIndex) ∧
    (∀ idx page col, idx.toNat ≤ 12 → 6 < page.toNat → exec (.glyph idx page col) s = refusal .pageRange) ∧
    (∀ idx page col, idx.toNat ≤ 12 → page.toNat ≤ 6 → 131 < col.toNat →
      exec (.glyph idx page col) s = refusal .columnRange) ∧
    (∀ v page col, 6 < page.toNat → exec (.render v page col) s = refusal .pageRange) ∧
    (∀ v page col, page.toNat ≤ 6 → 91 < col.toNat → exec (.render v page col) s = refusal .columnRange) ∧
    (∀ (w : Nat) page col, s.par.valWidth = some w → page.toNat ≤ 6 → col.toNat ≤ 91 →
      exec (.render (-(2 ^ (w - 1) : Int)) page col) s = refusal .valueRange)

/-- The framer's start step, R161: operands latched, GIE saved and cleared in one step, nothing on the wire yet. -/
def Obligations.TransferStartSavesAndClearsGie : Prop :=
  ∀ (s : State) (m : Mode) (n : Nat) (b : Bytes6) rest, s.running.work = .xfer m n b :: rest → s.xph = .idle → 1 ≤ n → n ≤ 6 →
    s.softStep =
      State.setWork (.framer :: rest)
        { s with
          savedGie := s.gie
          gie := false
          xmode := m
          xlen := n
          xidx := 0
          xbuf := loadBytes n b s.xbuf
          xph := .select }

/-- R162 to R168: the later phases, each one atomic step in the context whose transfer it is. X_BYTE without TXRDY and X_WAITIDLE
with BUSY are STUCK: the state stays. -/
def Obligations.FramerPhasesStepByStep : Prop :=
  ∀ (s : State) rest, s.running.work = .framer :: rest →
    (s.xph = .select → s.softStep = { s with cs := .asserted, wire := s.wire ++ [.cs .asserted], xph := .mode }) ∧
    (s.xph = .mode → s.softStep = { s with cd := s.xmode, wire := s.wire ++ [.cd s.xmode], xph := .byte }) ∧
    (s.xph = .byte → s.txrdy = true →
      s.softStep =
        { s with
          txbuf := getByte s.xbuf s.xidx
          txrdy := false
          xidx := s.xidx + 1
          xph := if s.xidx + 1 = s.xlen then .waitIdle else .byte }) ∧
    (s.xph = .byte → s.txrdy = false → s.softStep = s) ∧
    (s.xph = .waitIdle → s.txrdy = true → s.shbusy = false → s.softStep = { s with xph := .drain }) ∧
    (s.xph = .waitIdle → s.txrdy = false ∨ s.shbusy = true → s.softStep = s) ∧
    (s.xph = .drain → s.softStep = { s with rxfull := false, xph := .deselect }) ∧
    (s.xph = .deselect → s.softStep = { s with cs := .deasserted, wire := s.wire ++ [.cs .deasserted], xph := .restore }) ∧
    (s.xph = .restore → s.softStep = State.setWork rest { s with gie := s.savedGie, xph := .idle })

/-- R170, R171: the peripheral's two steps, and that neither changes anything where it is not enabled. The byte received is any
byte and the lines are left at any level: the statement holds for whatever the draw is. (That the lines are drawn too, and the
count of draws, are the model's, assumption log 12.) -/
def Obligations.PeripheralAcceptsAndShifts : Prop :=
  ∀ s : State,
    (s.txrdy = false → s.shbusy = false → s.serAccept = { s with shreg := s.txbuf, shbusy := true, txrdy := true }) ∧
    (s.txrdy = true ∨ s.shbusy = true → s.serAccept = s) ∧
    (s.shbusy = true → ∃ rx sclk mosi,
      s.serShift =
        { s with
          wire := s.wire ++ [.byte s.cd s.shreg]
          rxbuf := rx
          rxfull := true
          shbusy := false
          sclk := sclk
          mosi := mosi
          draws := s.draws + 1 }) ∧
    (s.shbusy = false → s.serShift = s)

/-- R174: between phases 1 and 8 GIE is 0 and SAVED_GIE is not written, no source is deliverable, and phase 8 gives GIE back; and
a completed XFER leaves GIE as it was. -/
def Obligations.TransferIsMaskedAndRestoresGie : Prop :=
  (∀ s s' : State, s.maskInv → s.xph ≠ .idle → s.port.head? ≠ some .reset → (∀ r, s.port.head? ≠ some (.request r)) →
    step s = .next s' →
    s.gie = false ∧ (∀ src, s.deliverable src = false) ∧
      ((s'.xph ≠ .idle ∧ s'.savedGie = s.savedGie ∧ s'.gie = false) ∨ (s'.xph = .idle ∧ s'.gie = s.savedGie))) ∧
  (∀ (s t : State) m (len : BitVec 3) b, s.busReady = true → 1 ≤ len.toNat → len.toNat ≤ 6 →
    exec (.xfer m len b) s = .next t → t.gie = s.gie)

/-- R172, R279: of a transfer in flight some step is always enabled, of the framer or of the peripheral, and each enabled step is
one step nearer its end, in whatever order they come: n + 6 framer steps after the start and 2n of the peripheral. -/
def Obligations.EveryTransferStepCountsDown : Prop :=
  ∀ (s : State) rest, s.frameInv → s.xph ≠ .idle → s.running.work = .framer :: rest →
    (s.framerStuck = true → s.serEnabled = true) ∧
    (s.framerStuck = false → s.softStep.transferLeft + 1 = s.transferLeft) ∧
    (s.serEnabled = true → s.serStep.transferLeft + 1 = s.transferLeft) ∧
    (s.xph = .select → s.transferLeft = (s.xlen + 6) + 2 * s.xlen)

/-- R173: a stuck framer stays stuck for ever without the peripheral; and with a peripheral that takes no step (SER_LIVE false,
assumption log 19) a transfer of any length ends in no final state: CS asserted, GIE 0, in flight. -/
def Obligations.StuckTransferHangs : Prop :=
  (∀ (s : State) rest n, s.running.work = .framer :: rest → s.framerStuck = true → State.softStep^[n] s = s) ∧
  (∀ (s : State) m (len : BitVec 3) b, s.par.serLive = false → s.xph = .idle → s.txrdy = true → s.shbusy = false →
    1 ≤ len.toNat → len.toNat ≤ 6 →
    ∃ t, exec (.xfer m len b) s = .next t ∧ t.framerStuck = true ∧ t.gie = false ∧ t.cs = .asserted ∧ t.txrdy = false ∧
      t.quiescent = false ∧ (∀ src, t.deliverable src = false))

/-- A wire byte of each format, presented alone, is sent as a one-byte transfer in the mode its format is sent in (R92 to R97,
R102, R105; that it is sent so is the model's choice, assumption log 8). -/
def Obligations.WireByteRowsSendOneByte : Prop :=
  ∀ s : State, s.busReady = true →
    let sends := fun (i : Instr) (m : Mode) (b : Byte) =>
      ∃ t, exec i s = .next t ∧ t = { s.withBusOf t with wire := s.wire ++ frame m [b] } ∧ t.cs = .deasserted ∧
        t.cd = m ∧ t.rxfull = false
    (∀ c, sends (.wColhi c) .command (0x10 ||| c.setWidth 8)) ∧
    (∀ c, sends (.wCollo c) .command (0x00 ||| c.setWidth 8)) ∧
    (∀ p, sends (.wPage p) .command (0xB0 ||| p.setWidth 8)) ∧
    (∀ p, sends (.wInv p) .command (0xA6 ||| p.setWidth 8)) ∧
    (∀ d, sends (.wData d) .data d)

/-! ## Position, glyphs, bound actions -/

/-- R190: SETPOS of a legal position sends the one frame of three command bytes, and writes nothing but the registers of the
bus. -/
def Obligations.SetPositionSendsThreeBytes : Prop :=
  ∀ (s : State) (page : BitVec 4) (col : BitVec 8), s.busReady = true → page.toNat ≤ 7 → col.toNat ≤ 131 →
    ∃ t, exec (.setpos page col) s = .next t ∧ t.cs = .deasserted ∧ t.cd = .command ∧ t.rxfull = false ∧
      t = { s.withBusOf t with
        wire := s.wire ++ frame .command
          [0x10 ||| (col.extractLsb' 4 4).setWidth 8, 0x00 ||| (col.extractLsb' 0 4).setWidth 8, 0xB0 ||| page.setWidth 8] }

/-- R191: the ranges of the three bytes, reading the position back from them, and the triple that is never produced. -/
def Obligations.PositionBytesReadBack : Prop :=
  ∀ (page : BitVec 4) (col : BitVec 8), page.toNat ≤ 7 → col.toNat ≤ 131 →
    let b := posBytes page col
    (0x10 ≤ b.b0.toNat ∧ b.b0.toNat ≤ 0x18) ∧ b.b1.toNat ≤ 0x0F ∧ (0xB0 ≤ b.b2.toNat ∧ b.b2.toNat ≤ 0xB7) ∧
    col = ((b.b0 &&& 0x0F) <<< 4) ||| (b.b1 &&& 0x0F) ∧ page.setWidth 8 = b.b2 &&& 0x0F ∧
    ¬ (b.b0 = 0x18 ∧ 0x03 < b.b1.toNat)

/-- R200, R201, R202: GLYPH sends four frames in order, the first half of the font bytes to page + 1 first and the second half to
page, from the glyph's twelve font bytes in ascending address; it leaves its operands in the running context's latches and
B_IDLE, and no other context's. -/
def Obligations.GlyphSendsFourFrames : Prop :=
  ∀ (s : State) (idx page : BitVec 4) (col : BitVec 8), s.busReady = true → idx.toNat ≤ 12 → page.toNat ≤ 6 →
    col.toNat ≤ 131 →
    ∃ t, exec (.glyph idx page col) s = .next t ∧ t.cs = .deasserted ∧ t.cd = .data ∧ t.rxfull = false ∧
      t = State.setRunning
        { s.running with bph := .idle, loc := { s.running.loc with bidx := idx, bpage := page, bcol := col } }
        { s.withBusOf t with
          wire := s.wire ++
            (frame .command [wireColhi (colHi col), wireCollo (colLo col), wirePage (page + 1)] ++
              frame .data ((List.range 6).map (fun k => s.par.font.getD (12 * idx.toNat + k) 0)) ++
              frame .command [wireColhi (colHi col), wireCollo (colLo col), wirePage page] ++
              frame .data ((List.range 6).map (fun k => s.par.font.getD (12 * idx.toNat + (6 + k)) 0))) }

/-- R22, R41, R200, R201, step by step: the call of a legal GLYPH latches its operands and goes to B_POS_UP with the position-set of
page + 1 to call; B_DATA_UP, B_POS_LO and B_DATA_LO follow, each with its one transfer to call, and then B_IDLE. Each step writes
the running context and nothing else. That the checks, the latches and B_POS_UP are one atomic step, and that each nested call
starts in a step of its own, is DEDUCED (assumption log 20). The last clause says which six font bytes a half is. -/
def Obligations.GlyphPhasesStepByStep : Prop :=
  (∀ (s : State) (idx page : BitVec 4) (col : BitVec 8) rest, s.running.work = .glyph idx page col :: rest →
    idx.toNat ≤ 12 → page.toNat ≤ 6 → col.toNat ≤ 131 →
    s.softStep = State.setRunning
      { work := .setpos (page + 1) col :: .glyphNext :: rest
        bph := .posUp
        loc := { s.running.loc with bidx := idx, bpage := page, bcol := col } } s) ∧
  (∀ (s : State) rest, s.running.work = .glyphNext :: rest →
    (s.running.bph = .posUp →
      s.softStep = State.setRunning
        { s.running with
          work := .xfer .data 6 (fontHalf s.par s.running.loc.bidx 0) :: .glyphNext :: rest, bph := .dataUp } s) ∧
    (s.running.bph = .dataUp →
      s.softStep = State.setRunning
        { s.running with
          work := .setpos s.running.loc.bpage s.running.loc.bcol :: .glyphNext :: rest, bph := .posLo } s) ∧
    (s.running.bph = .posLo →
      s.softStep = State.setRunning
        { s.running with
          work := .xfer .data 6 (fontHalf s.par s.running.loc.bidx 6) :: .glyphNext :: rest, bph := .dataLo } s) ∧
    (s.running.bph = .dataLo → s.softStep = State.setRunning { s.running with work := rest, bph := .idle } s)) ∧
  (∀ (p : Params) (idx : BitVec 4) (off k : Nat), k < 6 →
    getByte (fontHalf p idx off) k = p.font.getD (12 * idx.toNat + (off + k)) 0)

/-- R215, R216: DIGITS fills from the right: the last of the five slots always holds a digit, an earlier one holds its digit where
the value reaches that far and the blank glyph otherwise, and digits beyond the fifth are dropped. -/
def Obligations.DigitsFillFromTheRight : Prop :=
  ∀ (m k : Nat), k < 5 →
    (digits m).length = 5 ∧
      (digits m).getD (4 - k) glyphBlank = if k = 0 ∨ m / 10 ^ k ≠ 0 then BitVec.ofNat 4 (m / 10 ^ k % 10) else 12

/-- R213: RENDER of a value that can be drawn sends a sign glyph and five digit glyphs, left to right on an 8-column pitch, 24
frames in all, and writes nothing but the registers of the bus and the running context's latches. -/
def Obligations.RenderDrawsSignAndFiveDigits : Prop :=
  ∀ (s : State) (v : Int) (page : BitVec 4) (col : BitVec 8), s.busReady = true → page.toNat ≤ 6 → col.toNat ≤ 91 →
    renderable s.par v = true →
    ∃ t c, exec (.render v page col) s = .next t ∧ t.cs = .deasserted ∧ t.cd = .data ∧ t.rxfull = false ∧
      c.work = s.running.work ∧ c.bph = .idle ∧
      t = State.setRunning c
        { s.withBusOf t with
          wire := s.wire ++
            (glyphFrames s.par (if 0 ≤ v then 10 else 11) page col ++
              (List.range 5).flatMap (fun k =>
                glyphFrames s.par ((digits v.natAbs).getD k 12) page (BitVec.ofNat 8 (col.toNat + 8 * (k + 1))))) }

/-- R105, R210, R46: INVERT sends the new polarity bit, in one frame and no other; the toggle and the transfer are two steps, with
nothing on the wire after the first, and the second sends POL as it stands then, so that the bit sent is the in-memory bit also
where another context has inverted in between (that POL is read at the call is DEDUCED, assumption log 31). -/
def Obligations.InvertSendsTheNewPolarity : Prop :=
  (∀ s : State, s.busReady = true →
    ∃ t, exec .invert s = .next t ∧ t.cs = .deasserted ∧ t.cd = .command ∧ t.rxfull = false ∧
      t = { s.withBusOf t with
        pol := s.pol ^^^ 1
        wire := s.wire ++ frame .command [if s.pol ^^^ 1 = 1 then 0xA7 else 0xA6] }) ∧
  (∀ (s : State) rest, s.running.work = .invert :: rest →
    s.softStep = State.setWork (.sendPolarity :: rest) { s with pol := s.pol ^^^ 1 }) ∧
  (∀ (s : State) rest, s.running.work = .sendPolarity :: rest → s.xph = .idle →
    s.softStep =
      State.setWork (.framer :: rest)
        { s with
          savedGie := s.gie
          gie := false
          xmode := .command
          xlen := 1
          xidx := 0
          xbuf := { s.xbuf with b0 := if s.pol = 1 then 0xA7 else 0xA6 }
          xph := .select })

/-- R211: two INVERTs leave POL as it was and send two frames whose bytes differ in bit 0 only. -/
def Obligations.TwoInvertsRestorePolarity : Prop :=
  ∀ s : State, s.busReady = true →
    ∃ t u a b, exec .invert s = .next t ∧ exec .invert t = .next u ∧ u.pol = s.pol ∧
      u.wire = s.wire ++ frame .command [a] ++ frame .command [b] ∧ a ^^^ b = 1

/-- R105, R212: CNTSTEP adds the step exactly and draws the sum; where the sum is outside -2^(V-1)+1 .. 2^(V-1)-1 it is refused and
has changed nothing. The sum and the drawing are two steps (DEDUCED, assumption log 20), and the second draws COUNTER as it stands then (that it is read at the
call is DEDUCED, assumption log 31). -/
def Obligations.CounterStepAddsAndRenders : Prop :=
  (∀ s : State, s.busReady = true → s.par.wf = true → renderable s.par (s.counter + s.par.counterStep) = true →
    ∃ t c, exec .cntstep s = .next t ∧ t.cs = .deasserted ∧ t.cd = .data ∧ t.rxfull = false ∧
      c.work = s.running.work ∧ c.bph = .idle ∧
      t = State.setRunning c
        { s.withBusOf t with
          counter := s.counter + s.par.counterStep
          wire := s.wire ++ renderFrames s.par (s.counter + s.par.counterStep) s.par.renderPage s.par.renderCol }) ∧
  (∀ (s : State) (w : Nat), s.peripheralStill = true → s.par.valWidth = some w →
    s.counter + s.par.counterStep ≤ -(2 ^ (w - 1) : Int) ∨ (2 ^ (w - 1) : Int) - 1 < s.counter + s.par.counterStep →
    exec .cntstep s = .next { s with refused := true, reasons := s.reasons ++ [.valueRange] }) ∧
  (∀ (s : State) rest, s.running.work = .cntstep :: rest → renderable s.par (s.counter + s.par.counterStep) = true →
    s.softStep = State.setWork (.renderCounter :: rest) { s with counter := s.counter + s.par.counterStep }) ∧
  (∀ (s : State) rest, s.running.work = .renderCounter :: rest →
    s.softStep = (State.setWork (.render s.counter s.par.renderPage s.par.renderCol :: rest) s).softStep)

/-! ## Interrupts -/

/-- R230, R233, R236: a source is deliverable exactly when it is pending by its own flags, GIE is 1 and it is not in service. -/
def Obligations.DeliverableWhenPendingEnabledAndNotInService : Prop :=
  ∀ s : State,
    (∀ ch, s.deliverable (pinSource ch) = true ↔
      (s.chan ch).pinIfg = true ∧ s.gie = true ∧ (s.chan ch).insvcPin = false) ∧
    (∀ ch, s.deliverable (deadlineSource ch) = true ↔
      ((s.chan ch).cmpIfg = true ∧ (s.chan ch).cmpIe = true) ∧ s.gie = true ∧ (s.chan ch).insvcDl = false) ∧
    (s.deliverable .tmrother = true ↔
      s.tmrOtherPend = true ∧ s.gie = true ∧ ∀ r ∈ s.hs, r.source ≠ .tmrother)

/-- R234: entry at a preemption point: one record with the value of GIE (which is 1), the mark, GIE cleared where the parameter
says so, the handler's first step next, and nothing else changed. (The new record's latches are any values, R41; the count of
draws is the model's, assumption log 13.) A source that is not deliverable is not entered (assumption log 4). -/
def Obligations.InterruptEntryPushesARecord : Prop :=
  ∀ (s : State) (src : Source) rest, s.port = .deliver src :: rest →
    (s.deliverable src = true → ∃ loc,
      step s = .next
        { (State.setInService src true { s with port := rest }) with
          hs := { source := src, gieAtEntry := true, ctx := { work := [handlerTask src], bph := .idle, loc := loc } } :: s.hs
          gie := !s.par.irqEntryClearsGie
          draws := s.draws + 1 }) ∧
    (s.deliverable src = false → step s = .next { s with port := rest })

/-- R235: the last step of each handler drops the newest record and its mark, gives GIE back where entry had cleared it, and
leaves every older record and MAIN in their places. -/
def Obligations.HandlerReturnPopsTheRecord : Prop :=
  ∀ (s : State) (r : Activation) (older : List Activation) (t : Task), s.stackInv → s.hs = r :: older → r.ctx.work = [t] →
    t = .tmrother ∨ (∃ ch, t = .dlexp ch) ∨ (∃ ch, t = .pinHandler ch ∧ (s.chan ch).dph = .fin) →
    s.softStep.hs = older ∧ s.softStep.main = s.main ∧
      s.softStep.gie = (if s.par.irqEntryClearsGie then r.gieAtEntry else s.gie) ∧
      ∀ src, s.softStep.inService src = (s.inService src && decide (src ≠ r.source))

/-- R41, R44, R234: only the running context's record is written; every older record and MAIN keep their work, phase and
latches. -/
def Obligations.PreemptedContextsAreUntouched : Prop :=
  ∀ s : State,
    (s.hs = [] → s.softStep.hs = []) ∧
    (∀ r older, s.hs = r :: older →
      s.softStep.main = s.main ∧ (s.softStep.hs = older ∨ ∃ c, s.softStep.hs = { r with ctx := c } :: older))

/-- R237 with the order as a parameter: with no move listed and the peripheral still, the deliverable source of the highest rank
is entered and the others stay pending; where none is deliverable the running context steps (assumption log 3, 18). -/
def Obligations.AutomaticEntryTakesTheHighestRank : Prop :=
  ∀ s : State, s.port = [] → s.peripheralStill = true →
    (∀ src, s.deliverable src = true →
      ∃ top, s.deliverable top = true ∧ rankOf s.par.irqRank src ≤ rankOf s.par.irqRank top ∧
        step s = .next (s.enter top) ∧ (src ≠ top → (s.enter top).pending src = true)) ∧
    ((∀ src, s.deliverable src = false) → step s = .next s.softStep)

/-! ## The whole machine -/

/-- R6, R40, R78: no step writes a parameter (the font among them), and only the external initialisation and reset write the
backlight line. -/
def Obligations.ParametersAndBacklightAreNotWritten : Prop :=
  ∀ s s' : State, step s = .next s' →
    s'.par = s.par ∧
      (s.port.head? ≠ some .reset → (∀ v, s.port.head? ≠ some (.setBacklight v)) → s'.bl = s.bl)

/-- R9, R48, R64: WIRE, ACTLOG and the refusals are records: every step but reset keeps what they hold and may add to it. -/
def Obligations.RecordsOnlyGrow : Prop :=
  ∀ s s' : State, s.port.head? ≠ some .reset → step s = .next s' →
    s.wire <+: s'.wire ∧ s.actlog <+: s'.actlog ∧ s.reasons <+: s'.reasons ∧ (s.refused = true → s'.refused = true)

/-- R38, R171: the byte received is used by nothing: two machines that differ in RXBUF only take the same step and still differ in
RXBUF at most. -/
def Obligations.ReceivedByteIsNeverUsed : Prop :=
  ∀ (s s' : State) (x : Byte), step s = .next s' → ∃ y, step { s with rxbuf := x } = .next { s' with rxbuf := y }

/-- R48: no step reads the records: with anything put before what they hold, every step but reset does the same. -/
def Obligations.RecordsAreNeverRead : Prop :=
  ∀ (s s' : State) (w : List WireEvent) (a : List Channel) (rs : List RefuseReason) (b : Bool),
    s.port.head? ≠ some .reset → step s = .next s' →
    step { s with wire := w ++ s.wire, actlog := a ++ s.actlog, reasons := rs ++ s.reasons, refused := b || s.refused } =
      .next
        { s' with wire := w ++ s'.wire, actlog := a ++ s'.actlog, reasons := rs ++ s'.reasons, refused := b || s'.refused }

/-- R10: the two layers agree: an operation issued to both layers with interrupts masked, run step by step by the block's own
agents (assumption log 3), comes to the state its request to the core layer gives. -/
def Obligations.IssuedOperationMatchesTheRequest : Prop :=
  ∀ (s : State) (i : Instr) (t : Task), opTask i = some t → s.gie = false → s.xph = .idle → s.mayIssue = true → s.port = [] →
    ∃ k, Host.Core.run Sys2Proof.core (k + 1) { s with port := [.issue (encode i)] } = exec i s
end

