-- ==== Sys2Proof/Laws/State.lean ====
section
/-! SUPPORT. One lemma per field and update of the state, so that no later proof unfolds an update: the writes of the running
context change HS and MAIN only, the writes of a channel its own registers only. -/

namespace Sys2Proof.Machine

/-! ## setRunning -/

@[simp] theorem setRunning_par (s : State) (c : Ctx) : (s.setRunning c).par = s.par := by unfold State.setRunning; split <;> rfl
@[simp] theorem setRunning_ch1 (s : State) (c : Ctx) : (s.setRunning c).ch1 = s.ch1 := by unfold State.setRunning; split <;> rfl
@[simp] theorem setRunning_ch2 (s : State) (c : Ctx) : (s.setRunning c).ch2 = s.ch2 := by unfold State.setRunning; split <;> rfl
@[simp] theorem setRunning_cnt (s : State) (c : Ctx) : (s.setRunning c).cnt = s.cnt := by unfold State.setRunning; split <;> rfl
@[simp] theorem setRunning_gie (s : State) (c : Ctx) : (s.setRunning c).gie = s.gie := by unfold State.setRunning; split <;> rfl
@[simp] theorem setRunning_savedGie (s : State) (c : Ctx) : (s.setRunning c).savedGie = s.savedGie := by unfold State.setRunning; split <;> rfl
@[simp] theorem setRunning_tmrOtherPend (s : State) (c : Ctx) : (s.setRunning c).tmrOtherPend = s.tmrOtherPend := by unfold State.setRunning; split <;> rfl
@[simp] theorem setRunning_cs (s : State) (c : Ctx) : (s.setRunning c).cs = s.cs := by unfold State.setRunning; split <;> rfl
@[simp] theorem setRunning_cd (s : State) (c : Ctx) : (s.setRunning c).cd = s.cd := by unfold State.setRunning; split <;> rfl
@[simp] theorem setRunning_xph (s : State) (c : Ctx) : (s.setRunning c).xph = s.xph := by unfold State.setRunning; split <;> rfl
@[simp] theorem setRunning_xmode (s : State) (c : Ctx) : (s.setRunning c).xmode = s.xmode := by unfold State.setRunning; split <;> rfl
@[simp] theorem setRunning_xlen (s : State) (c : Ctx) : (s.setRunning c).xlen = s.xlen := by unfold State.setRunning; split <;> rfl
@[simp] theorem setRunning_xidx (s : State) (c : Ctx) : (s.setRunning c).xidx = s.xidx := by unfold State.setRunning; split <;> rfl
@[simp] theorem setRunning_xbuf (s : State) (c : Ctx) : (s.setRunning c).xbuf = s.xbuf := by unfold State.setRunning; split <;> rfl
@[simp] theorem setRunning_txbuf (s : State) (c : Ctx) : (s.setRunning c).txbuf = s.txbuf := by unfold State.setRunning; split <;> rfl
@[simp] theorem setRunning_txrdy (s : State) (c : Ctx) : (s.setRunning c).txrdy = s.txrdy := by unfold State.setRunning; split <;> rfl
@[simp] theorem setRunning_shreg (s : State) (c : Ctx) : (s.setRunning c).shreg = s.shreg := by unfold State.setRunning; split <;> rfl
@[simp] theorem setRunning_shbusy (s : State) (c : Ctx) : (s.setRunning c).shbusy = s.shbusy := by unfold State.setRunning; split <;> rfl
@[simp] theorem setRunning_rxbuf (s : State) (c : Ctx) : (s.setRunning c).rxbuf = s.rxbuf := by unfold State.setRunning; split <;> rfl
@[simp] theorem setRunning_rxfull (s : State) (c : Ctx) : (s.setRunning c).rxfull = s.rxfull := by unfold State.setRunning; split <;> rfl
@[simp] theorem setRunning_sclk (s : State) (c : Ctx) : (s.setRunning c).sclk = s.sclk := by unfold State.setRunning; split <;> rfl
@[simp] theorem setRunning_mosi (s : State) (c : Ctx) : (s.setRunning c).mosi = s.mosi := by unfold State.setRunning; split <;> rfl
@[simp] theorem setRunning_bl (s : State) (c : Ctx) : (s.setRunning c).bl = s.bl := by unfold State.setRunning; split <;> rfl
@[simp] theorem setRunning_pol (s : State) (c : Ctx) : (s.setRunning c).pol = s.pol := by unfold State.setRunning; split <;> rfl
@[simp] theorem setRunning_counter (s : State) (c : Ctx) : (s.setRunning c).counter = s.counter := by unfold State.setRunning; split <;> rfl
@[simp] theorem setRunning_wire (s : State) (c : Ctx) : (s.setRunning c).wire = s.wire := by unfold State.setRunning; split <;> rfl
@[simp] theorem setRunning_actlog (s : State) (c : Ctx) : (s.setRunning c).actlog = s.actlog := by unfold State.setRunning; split <;> rfl
@[simp] theorem setRunning_refused (s : State) (c : Ctx) : (s.setRunning c).refused = s.refused := by unfold State.setRunning; split <;> rfl
@[simp] theorem setRunning_reasons (s : State) (c : Ctx) : (s.setRunning c).reasons = s.reasons := by unfold State.setRunning; split <;> rfl
@[simp] theorem setRunning_port (s : State) (c : Ctx) : (s.setRunning c).port = s.port := by unfold State.setRunning; split <;> rfl
@[simp] theorem setRunning_draws (s : State) (c : Ctx) : (s.setRunning c).draws = s.draws := by unfold State.setRunning; split <;> rfl

/-! ## setWork -/

@[simp] theorem setWork_par (s : State) (w : List Task) : (s.setWork w).par = s.par := by simp [State.setWork]
@[simp] theorem setWork_ch1 (s : State) (w : List Task) : (s.setWork w).ch1 = s.ch1 := by simp [State.setWork]
@[simp] theorem setWork_ch2 (s : State) (w : List Task) : (s.setWork w).ch2 = s.ch2 := by simp [State.setWork]
@[simp] theorem setWork_cnt (s : State) (w : List Task) : (s.setWork w).cnt = s.cnt := by simp [State.setWork]
@[simp] theorem setWork_gie (s : State) (w : List Task) : (s.setWork w).gie = s.gie := by simp [State.setWork]
@[simp] theorem setWork_savedGie (s : State) (w : List Task) : (s.setWork w).savedGie = s.savedGie := by simp [State.setWork]
@[simp] theorem setWork_tmrOtherPend (s : State) (w : List Task) : (s.setWork w).tmrOtherPend = s.tmrOtherPend := by simp [State.setWork]
@[simp] theorem setWork_cs (s : State) (w : List Task) : (s.setWork w).cs = s.cs := by simp [State.setWork]
@[simp] theorem setWork_cd (s : State) (w : List Task) : (s.setWork w).cd = s.cd := by simp [State.setWork]
@[simp] theorem setWork_xph (s : State) (w : List Task) : (s.setWork w).xph = s.xph := by simp [State.setWork]
@[simp] theorem setWork_xmode (s : State) (w : List Task) : (s.setWork w).xmode = s.xmode := by simp [State.setWork]
@[simp] theorem setWork_xlen (s : State) (w : List Task) : (s.setWork w).xlen = s.xlen := by simp [State.setWork]
@[simp] theorem setWork_xidx (s : State) (w : List Task) : (s.setWork w).xidx = s.xidx := by simp [State.setWork]
@[simp] theorem setWork_xbuf (s : State) (w : List Task) : (s.setWork w).xbuf = s.xbuf := by simp [State.setWork]
@[simp] theorem setWork_txbuf (s : State) (w : List Task) : (s.setWork w).txbuf = s.txbuf := by simp [State.setWork]
@[simp] theorem setWork_txrdy (s : State) (w : List Task) : (s.setWork w).txrdy = s.txrdy := by simp [State.setWork]
@[simp] theorem setWork_shreg (s : State) (w : List Task) : (s.setWork w).shreg = s.shreg := by simp [State.setWork]
@[simp] theorem setWork_shbusy (s : State) (w : List Task) : (s.setWork w).shbusy = s.shbusy := by simp [State.setWork]
@[simp] theorem setWork_rxbuf (s : State) (w : List Task) : (s.setWork w).rxbuf = s.rxbuf := by simp [State.setWork]
@[simp] theorem setWork_rxfull (s : State) (w : List Task) : (s.setWork w).rxfull = s.rxfull := by simp [State.setWork]
@[simp] theorem setWork_sclk (s : State) (w : List Task) : (s.setWork w).sclk = s.sclk := by simp [State.setWork]
@[simp] theorem setWork_mosi (s : State) (w : List Task) : (s.setWork w).mosi = s.mosi := by simp [State.setWork]
@[simp] theorem setWork_bl (s : State) (w : List Task) : (s.setWork w).bl = s.bl := by simp [State.setWork]
@[simp] theorem setWork_pol (s : State) (w : List Task) : (s.setWork w).pol = s.pol := by simp [State.setWork]
@[simp] theorem setWork_counter (s : State) (w : List Task) : (s.setWork w).counter = s.counter := by simp [State.setWork]
@[simp] theorem setWork_wire (s : State) (w : List Task) : (s.setWork w).wire = s.wire := by simp [State.setWork]
@[simp] theorem setWork_actlog (s : State) (w : List Task) : (s.setWork w).actlog = s.actlog := by simp [State.setWork]
@[simp] theorem setWork_refused (s : State) (w : List Task) : (s.setWork w).refused = s.refused := by simp [State.setWork]
@[simp] theorem setWork_reasons (s : State) (w : List Task) : (s.setWork w).reasons = s.reasons := by simp [State.setWork]
@[simp] theorem setWork_port (s : State) (w : List Task) : (s.setWork w).port = s.port := by simp [State.setWork]
@[simp] theorem setWork_draws (s : State) (w : List Task) : (s.setWork w).draws = s.draws := by simp [State.setWork]

/-! ## setBph -/

@[simp] theorem setBph_par (s : State) (b : BPhase) : (s.setBph b).par = s.par := by simp [State.setBph]
@[simp] theorem setBph_ch1 (s : State) (b : BPhase) : (s.setBph b).ch1 = s.ch1 := by simp [State.setBph]
@[simp] theorem setBph_ch2 (s : State) (b : BPhase) : (s.setBph b).ch2 = s.ch2 := by simp [State.setBph]
@[simp] theorem setBph_cnt (s : State) (b : BPhase) : (s.setBph b).cnt = s.cnt := by simp [State.setBph]
@[simp] theorem setBph_gie (s : State) (b : BPhase) : (s.setBph b).gie = s.gie := by simp [State.setBph]
@[simp] theorem setBph_savedGie (s : State) (b : BPhase) : (s.setBph b).savedGie = s.savedGie := by simp [State.setBph]
@[simp] theorem setBph_tmrOtherPend (s : State) (b : BPhase) : (s.setBph b).tmrOtherPend = s.tmrOtherPend := by simp [State.setBph]
@[simp] theorem setBph_cs (s : State) (b : BPhase) : (s.setBph b).cs = s.cs := by simp [State.setBph]
@[simp] theorem setBph_cd (s : State) (b : BPhase) : (s.setBph b).cd = s.cd := by simp [State.setBph]
@[simp] theorem setBph_xph (s : State) (b : BPhase) : (s.setBph b).xph = s.xph := by simp [State.setBph]
@[simp] theorem setBph_xmode (s : State) (b : BPhase) : (s.setBph b).xmode = s.xmode := by simp [State.setBph]
@[simp] theorem setBph_xlen (s : State) (b : BPhase) : (s.setBph b).xlen = s.xlen := by simp [State.setBph]
@[simp] theorem setBph_xidx (s : State) (b : BPhase) : (s.setBph b).xidx = s.xidx := by simp [State.setBph]
@[simp] theorem setBph_xbuf (s : State) (b : BPhase) : (s.setBph b).xbuf = s.xbuf := by simp [State.setBph]
@[simp] theorem setBph_txbuf (s : State) (b : BPhase) : (s.setBph b).txbuf = s.txbuf := by simp [State.setBph]
@[simp] theorem setBph_txrdy (s : State) (b : BPhase) : (s.setBph b).txrdy = s.txrdy := by simp [State.setBph]
@[simp] theorem setBph_shreg (s : State) (b : BPhase) : (s.setBph b).shreg = s.shreg := by simp [State.setBph]
@[simp] theorem setBph_shbusy (s : State) (b : BPhase) : (s.setBph b).shbusy = s.shbusy := by simp [State.setBph]
@[simp] theorem setBph_rxbuf (s : State) (b : BPhase) : (s.setBph b).rxbuf = s.rxbuf := by simp [State.setBph]
@[simp] theorem setBph_rxfull (s : State) (b : BPhase) : (s.setBph b).rxfull = s.rxfull := by simp [State.setBph]
@[simp] theorem setBph_sclk (s : State) (b : BPhase) : (s.setBph b).sclk = s.sclk := by simp [State.setBph]
@[simp] theorem setBph_mosi (s : State) (b : BPhase) : (s.setBph b).mosi = s.mosi := by simp [State.setBph]
@[simp] theorem setBph_bl (s : State) (b : BPhase) : (s.setBph b).bl = s.bl := by simp [State.setBph]
@[simp] theorem setBph_pol (s : State) (b : BPhase) : (s.setBph b).pol = s.pol := by simp [State.setBph]
@[simp] theorem setBph_counter (s : State) (b : BPhase) : (s.setBph b).counter = s.counter := by simp [State.setBph]
@[simp] theorem setBph_wire (s : State) (b : BPhase) : (s.setBph b).wire = s.wire := by simp [State.setBph]
@[simp] theorem setBph_actlog (s : State) (b : BPhase) : (s.setBph b).actlog = s.actlog := by simp [State.setBph]
@[simp] theorem setBph_refused (s : State) (b : BPhase) : (s.setBph b).refused = s.refused := by simp [State.setBph]
@[simp] theorem setBph_reasons (s : State) (b : BPhase) : (s.setBph b).reasons = s.reasons := by simp [State.setBph]
@[simp] theorem setBph_port (s : State) (b : BPhase) : (s.setBph b).port = s.port := by simp [State.setBph]
@[simp] theorem setBph_draws (s : State) (b : BPhase) : (s.setBph b).draws = s.draws := by simp [State.setBph]

/-! ## setLocals -/

@[simp] theorem setLocals_par (s : State) (l : Locals) : (s.setLocals l).par = s.par := by simp [State.setLocals]
@[simp] theorem setLocals_ch1 (s : State) (l : Locals) : (s.setLocals l).ch1 = s.ch1 := by simp [State.setLocals]
@[simp] theorem setLocals_ch2 (s : State) (l : Locals) : (s.setLocals l).ch2 = s.ch2 := by simp [State.setLocals]
@[simp] theorem setLocals_cnt (s : State) (l : Locals) : (s.setLocals l).cnt = s.cnt := by simp [State.setLocals]
@[simp] theorem setLocals_gie (s : State) (l : Locals) : (s.setLocals l).gie = s.gie := by simp [State.setLocals]
@[simp] theorem setLocals_savedGie (s : State) (l : Locals) : (s.setLocals l).savedGie = s.savedGie := by simp [State.setLocals]
@[simp] theorem setLocals_tmrOtherPend (s : State) (l : Locals) : (s.setLocals l).tmrOtherPend = s.tmrOtherPend := by simp [State.setLocals]
@[simp] theorem setLocals_cs (s : State) (l : Locals) : (s.setLocals l).cs = s.cs := by simp [State.setLocals]
@[simp] theorem setLocals_cd (s : State) (l : Locals) : (s.setLocals l).cd = s.cd := by simp [State.setLocals]
@[simp] theorem setLocals_xph (s : State) (l : Locals) : (s.setLocals l).xph = s.xph := by simp [State.setLocals]
@[simp] theorem setLocals_xmode (s : State) (l : Locals) : (s.setLocals l).xmode = s.xmode := by simp [State.setLocals]
@[simp] theorem setLocals_xlen (s : State) (l : Locals) : (s.setLocals l).xlen = s.xlen := by simp [State.setLocals]
@[simp] theorem setLocals_xidx (s : State) (l : Locals) : (s.setLocals l).xidx = s.xidx := by simp [State.setLocals]
@[simp] theorem setLocals_xbuf (s : State) (l : Locals) : (s.setLocals l).xbuf = s.xbuf := by simp [State.setLocals]
@[simp] theorem setLocals_txbuf (s : State) (l : Locals) : (s.setLocals l).txbuf = s.txbuf := by simp [State.setLocals]
@[simp] theorem setLocals_txrdy (s : State) (l : Locals) : (s.setLocals l).txrdy = s.txrdy := by simp [State.setLocals]
@[simp] theorem setLocals_shreg (s : State) (l : Locals) : (s.setLocals l).shreg = s.shreg := by simp [State.setLocals]
@[simp] theorem setLocals_shbusy (s : State) (l : Locals) : (s.setLocals l).shbusy = s.shbusy := by simp [State.setLocals]
@[simp] theorem setLocals_rxbuf (s : State) (l : Locals) : (s.setLocals l).rxbuf = s.rxbuf := by simp [State.setLocals]
@[simp] theorem setLocals_rxfull (s : State) (l : Locals) : (s.setLocals l).rxfull = s.rxfull := by simp [State.setLocals]
@[simp] theorem setLocals_sclk (s : State) (l : Locals) : (s.setLocals l).sclk = s.sclk := by simp [State.setLocals]
@[simp] theorem setLocals_mosi (s : State) (l : Locals) : (s.setLocals l).mosi = s.mosi := by simp [State.setLocals]
@[simp] theorem setLocals_bl (s : State) (l : Locals) : (s.setLocals l).bl = s.bl := by simp [State.setLocals]
@[simp] theorem setLocals_pol (s : State) (l : Locals) : (s.setLocals l).pol = s.pol := by simp [State.setLocals]
@[simp] theorem setLocals_counter (s : State) (l : Locals) : (s.setLocals l).counter = s.counter := by simp [State.setLocals]
@[simp] theorem setLocals_wire (s : State) (l : Locals) : (s.setLocals l).wire = s.wire := by simp [State.setLocals]
@[simp] theorem setLocals_actlog (s : State) (l : Locals) : (s.setLocals l).actlog = s.actlog := by simp [State.setLocals]
@[simp] theorem setLocals_refused (s : State) (l : Locals) : (s.setLocals l).refused = s.refused := by simp [State.setLocals]
@[simp] theorem setLocals_reasons (s : State) (l : Locals) : (s.setLocals l).reasons = s.reasons := by simp [State.setLocals]
@[simp] theorem setLocals_port (s : State) (l : Locals) : (s.setLocals l).port = s.port := by simp [State.setLocals]
@[simp] theorem setLocals_draws (s : State) (l : Locals) : (s.setLocals l).draws = s.draws := by simp [State.setLocals]

/-! ## pushTasks -/

@[simp] theorem pushTasks_par (s : State) (ts : List Task) : (s.pushTasks ts).par = s.par := by simp [State.pushTasks]
@[simp] theorem pushTasks_ch1 (s : State) (ts : List Task) : (s.pushTasks ts).ch1 = s.ch1 := by simp [State.pushTasks]
@[simp] theorem pushTasks_ch2 (s : State) (ts : List Task) : (s.pushTasks ts).ch2 = s.ch2 := by simp [State.pushTasks]
@[simp] theorem pushTasks_cnt (s : State) (ts : List Task) : (s.pushTasks ts).cnt = s.cnt := by simp [State.pushTasks]
@[simp] theorem pushTasks_gie (s : State) (ts : List Task) : (s.pushTasks ts).gie = s.gie := by simp [State.pushTasks]
@[simp] theorem pushTasks_savedGie (s : State) (ts : List Task) : (s.pushTasks ts).savedGie = s.savedGie := by simp [State.pushTasks]
@[simp] theorem pushTasks_tmrOtherPend (s : State) (ts : List Task) : (s.pushTasks ts).tmrOtherPend = s.tmrOtherPend := by simp [State.pushTasks]
@[simp] theorem pushTasks_cs (s : State) (ts : List Task) : (s.pushTasks ts).cs = s.cs := by simp [State.pushTasks]
@[simp] theorem pushTasks_cd (s : State) (ts : List Task) : (s.pushTasks ts).cd = s.cd := by simp [State.pushTasks]
@[simp] theorem pushTasks_xph (s : State) (ts : List Task) : (s.pushTasks ts).xph = s.xph := by simp [State.pushTasks]
@[simp] theorem pushTasks_xmode (s : State) (ts : List Task) : (s.pushTasks ts).xmode = s.xmode := by simp [State.pushTasks]
@[simp] theorem pushTasks_xlen (s : State) (ts : List Task) : (s.pushTasks ts).xlen = s.xlen := by simp [State.pushTasks]
@[simp] theorem pushTasks_xidx (s : State) (ts : List Task) : (s.pushTasks ts).xidx = s.xidx := by simp [State.pushTasks]
@[simp] theorem pushTasks_xbuf (s : State) (ts : List Task) : (s.pushTasks ts).xbuf = s.xbuf := by simp [State.pushTasks]
@[simp] theorem pushTasks_txbuf (s : State) (ts : List Task) : (s.pushTasks ts).txbuf = s.txbuf := by simp [State.pushTasks]
@[simp] theorem pushTasks_txrdy (s : State) (ts : List Task) : (s.pushTasks ts).txrdy = s.txrdy := by simp [State.pushTasks]
@[simp] theorem pushTasks_shreg (s : State) (ts : List Task) : (s.pushTasks ts).shreg = s.shreg := by simp [State.pushTasks]
@[simp] theorem pushTasks_shbusy (s : State) (ts : List Task) : (s.pushTasks ts).shbusy = s.shbusy := by simp [State.pushTasks]
@[simp] theorem pushTasks_rxbuf (s : State) (ts : List Task) : (s.pushTasks ts).rxbuf = s.rxbuf := by simp [State.pushTasks]
@[simp] theorem pushTasks_rxfull (s : State) (ts : List Task) : (s.pushTasks ts).rxfull = s.rxfull := by simp [State.pushTasks]
@[simp] theorem pushTasks_sclk (s : State) (ts : List Task) : (s.pushTasks ts).sclk = s.sclk := by simp [State.pushTasks]
@[simp] theorem pushTasks_mosi (s : State) (ts : List Task) : (s.pushTasks ts).mosi = s.mosi := by simp [State.pushTasks]
@[simp] theorem pushTasks_bl (s : State) (ts : List Task) : (s.pushTasks ts).bl = s.bl := by simp [State.pushTasks]
@[simp] theorem pushTasks_pol (s : State) (ts : List Task) : (s.pushTasks ts).pol = s.pol := by simp [State.pushTasks]
@[simp] theorem pushTasks_counter (s : State) (ts : List Task) : (s.pushTasks ts).counter = s.counter := by simp [State.pushTasks]
@[simp] theorem pushTasks_wire (s : State) (ts : List Task) : (s.pushTasks ts).wire = s.wire := by simp [State.pushTasks]
@[simp] theorem pushTasks_actlog (s : State) (ts : List Task) : (s.pushTasks ts).actlog = s.actlog := by simp [State.pushTasks]
@[simp] theorem pushTasks_refused (s : State) (ts : List Task) : (s.pushTasks ts).refused = s.refused := by simp [State.pushTasks]
@[simp] theorem pushTasks_reasons (s : State) (ts : List Task) : (s.pushTasks ts).reasons = s.reasons := by simp [State.pushTasks]
@[simp] theorem pushTasks_port (s : State) (ts : List Task) : (s.pushTasks ts).port = s.port := by simp [State.pushTasks]
@[simp] theorem pushTasks_draws (s : State) (ts : List Task) : (s.pushTasks ts).draws = s.draws := by simp [State.pushTasks]

/-! ## setChan -/

@[simp] theorem setChan_par (s : State) (ch : Channel) (c : Chan) : (s.setChan ch c).par = s.par := by cases ch <;> rfl
@[simp] theorem setChan_cnt (s : State) (ch : Channel) (c : Chan) : (s.setChan ch c).cnt = s.cnt := by cases ch <;> rfl
@[simp] theorem setChan_gie (s : State) (ch : Channel) (c : Chan) : (s.setChan ch c).gie = s.gie := by cases ch <;> rfl
@[simp] theorem setChan_savedGie (s : State) (ch : Channel) (c : Chan) : (s.setChan ch c).savedGie = s.savedGie := by cases ch <;> rfl
@[simp] theorem setChan_hs (s : State) (ch : Channel) (c : Chan) : (s.setChan ch c).hs = s.hs := by cases ch <;> rfl
@[simp] theorem setChan_main (s : State) (ch : Channel) (c : Chan) : (s.setChan ch c).main = s.main := by cases ch <;> rfl
@[simp] theorem setChan_tmrOtherPend (s : State) (ch : Channel) (c : Chan) : (s.setChan ch c).tmrOtherPend = s.tmrOtherPend := by cases ch <;> rfl
@[simp] theorem setChan_cs (s : State) (ch : Channel) (c : Chan) : (s.setChan ch c).cs = s.cs := by cases ch <;> rfl
@[simp] theorem setChan_cd (s : State) (ch : Channel) (c : Chan) : (s.setChan ch c).cd = s.cd := by cases ch <;> rfl
@[simp] theorem setChan_xph (s : State) (ch : Channel) (c : Chan) : (s.setChan ch c).xph = s.xph := by cases ch <;> rfl
@[simp] theorem setChan_xmode (s : State) (ch : Channel) (c : Chan) : (s.setChan ch c).xmode = s.xmode := by cases ch <;> rfl
@[simp] theorem setChan_xlen (s : State) (ch : Channel) (c : Chan) : (s.setChan ch c).xlen = s.xlen := by cases ch <;> rfl
@[simp] theorem setChan_xidx (s : State) (ch : Channel) (c : Chan) : (s.setChan ch c).xidx = s.xidx := by cases ch <;> rfl
@[simp] theorem setChan_xbuf (s : State) (ch : Channel) (c : Chan) : (s.setChan ch c).xbuf = s.xbuf := by cases ch <;> rfl
@[simp] theorem setChan_txbuf (s : State) (ch : Channel) (c : Chan) : (s.setChan ch c).txbuf = s.txbuf := by cases ch <;> rfl
@[simp] theorem setChan_txrdy (s : State) (ch : Channel) (c : Chan) : (s.setChan ch c).txrdy = s.txrdy := by cases ch <;> rfl
@[simp] theorem setChan_shreg (s : State) (ch : Channel) (c : Chan) : (s.setChan ch c).shreg = s.shreg := by cases ch <;> rfl
@[simp] theorem setChan_shbusy (s : State) (ch : Channel) (c : Chan) : (s.setChan ch c).shbusy = s.shbusy := by cases ch <;> rfl
@[simp] theorem setChan_rxbuf (s : State) (ch : Channel) (c : Chan) : (s.setChan ch c).rxbuf = s.rxbuf := by cases ch <;> rfl
@[simp] theorem setChan_rxfull (s : State) (ch : Channel) (c : Chan) : (s.setChan ch c).rxfull = s.rxfull := by cases ch <;> rfl
@[simp] theorem setChan_sclk (s : State) (ch : Channel) (c : Chan) : (s.setChan ch c).sclk = s.sclk := by cases ch <;> rfl
@[simp] theorem setChan_mosi (s : State) (ch : Channel) (c : Chan) : (s.setChan ch c).mosi = s.mosi := by cases ch <;> rfl
@[simp] theorem setChan_bl (s : State) (ch : Channel) (c : Chan) : (s.setChan ch c).bl = s.bl := by cases ch <;> rfl
@[simp] theorem setChan_pol (s : State) (ch : Channel) (c : Chan) : (s.setChan ch c).pol = s.pol := by cases ch <;> rfl
@[simp] theorem setChan_counter (s : State) (ch : Channel) (c : Chan) : (s.setChan ch c).counter = s.counter := by cases ch <;> rfl
@[simp] theorem setChan_wire (s : State) (ch : Channel) (c : Chan) : (s.setChan ch c).wire = s.wire := by cases ch <;> rfl
@[simp] theorem setChan_actlog (s : State) (ch : Channel) (c : Chan) : (s.setChan ch c).actlog = s.actlog := by cases ch <;> rfl
@[simp] theorem setChan_refused (s : State) (ch : Channel) (c : Chan) : (s.setChan ch c).refused = s.refused := by cases ch <;> rfl
@[simp] theorem setChan_reasons (s : State) (ch : Channel) (c : Chan) : (s.setChan ch c).reasons = s.reasons := by cases ch <;> rfl
@[simp] theorem setChan_port (s : State) (ch : Channel) (c : Chan) : (s.setChan ch c).port = s.port := by cases ch <;> rfl
@[simp] theorem setChan_draws (s : State) (ch : Channel) (c : Chan) : (s.setChan ch c).draws = s.draws := by cases ch <;> rfl

/-! ## setInService -/

@[simp] theorem setInService_par (s : State) (src : Source) (v : Bool) : (s.setInService src v).par = s.par := by cases src <;> rfl
@[simp] theorem setInService_cnt (s : State) (src : Source) (v : Bool) : (s.setInService src v).cnt = s.cnt := by cases src <;> rfl
@[simp] theorem setInService_gie (s : State) (src : Source) (v : Bool) : (s.setInService src v).gie = s.gie := by cases src <;> rfl
@[simp] theorem setInService_savedGie (s : State) (src : Source) (v : Bool) : (s.setInService src v).savedGie = s.savedGie := by cases src <;> rfl
@[simp] theorem setInService_hs (s : State) (src : Source) (v : Bool) : (s.setInService src v).hs = s.hs := by cases src <;> rfl
@[simp] theorem setInService_main (s : State) (src : Source) (v : Bool) : (s.setInService src v).main = s.main := by cases src <;> rfl
@[simp] theorem setInService_tmrOtherPend (s : State) (src : Source) (v : Bool) : (s.setInService src v).tmrOtherPend = s.tmrOtherPend := by cases src <;> rfl
@[simp] theorem setInService_cs (s : State) (src : Source) (v : Bool) : (s.setInService src v).cs = s.cs := by cases src <;> rfl
@[simp] theorem setInService_cd (s : State) (src : Source) (v : Bool) : (s.setInService src v).cd = s.cd := by cases src <;> rfl
@[simp] theorem setInService_xph (s : State) (src : Source) (v : Bool) : (s.setInService src v).xph = s.xph := by cases src <;> rfl
@[simp] theorem setInService_xmode (s : State) (src : Source) (v : Bool) : (s.setInService src v).xmode = s.xmode := by cases src <;> rfl
@[simp] theorem setInService_xlen (s : State) (src : Source) (v : Bool) : (s.setInService src v).xlen = s.xlen := by cases src <;> rfl
@[simp] theorem setInService_xidx (s : State) (src : Source) (v : Bool) : (s.setInService src v).xidx = s.xidx := by cases src <;> rfl
@[simp] theorem setInService_xbuf (s : State) (src : Source) (v : Bool) : (s.setInService src v).xbuf = s.xbuf := by cases src <;> rfl
@[simp] theorem setInService_txbuf (s : State) (src : Source) (v : Bool) : (s.setInService src v).txbuf = s.txbuf := by cases src <;> rfl
@[simp] theorem setInService_txrdy (s : State) (src : Source) (v : Bool) : (s.setInService src v).txrdy = s.txrdy := by cases src <;> rfl
@[simp] theorem setInService_shreg (s : State) (src : Source) (v : Bool) : (s.setInService src v).shreg = s.shreg := by cases src <;> rfl
@[simp] theorem setInService_shbusy (s : State) (src : Source) (v : Bool) : (s.setInService src v).shbusy = s.shbusy := by cases src <;> rfl
@[simp] theorem setInService_rxbuf (s : State) (src : Source) (v : Bool) : (s.setInService src v).rxbuf = s.rxbuf := by cases src <;> rfl
@[simp] theorem setInService_rxfull (s : State) (src : Source) (v : Bool) : (s.setInService src v).rxfull = s.rxfull := by cases src <;> rfl
@[simp] theorem setInService_sclk (s : State) (src : Source) (v : Bool) : (s.setInService src v).sclk = s.sclk := by cases src <;> rfl
@[simp] theorem setInService_mosi (s : State) (src : Source) (v : Bool) : (s.setInService src v).mosi = s.mosi := by cases src <;> rfl
@[simp] theorem setInService_bl (s : State) (src : Source) (v : Bool) : (s.setInService src v).bl = s.bl := by cases src <;> rfl
@[simp] theorem setInService_pol (s : State) (src : Source) (v : Bool) : (s.setInService src v).pol = s.pol := by cases src <;> rfl
@[simp] theorem setInService_counter (s : State) (src : Source) (v : Bool) : (s.setInService src v).counter = s.counter := by cases src <;> rfl
@[simp] theorem setInService_wire (s : State) (src : Source) (v : Bool) : (s.setInService src v).wire = s.wire := by cases src <;> rfl
@[simp] theorem setInService_actlog (s : State) (src : Source) (v : Bool) : (s.setInService src v).actlog = s.actlog := by cases src <;> rfl
@[simp] theorem setInService_refused (s : State) (src : Source) (v : Bool) : (s.setInService src v).refused = s.refused := by cases src <;> rfl
@[simp] theorem setInService_reasons (s : State) (src : Source) (v : Bool) : (s.setInService src v).reasons = s.reasons := by cases src <;> rfl
@[simp] theorem setInService_port (s : State) (src : Source) (v : Bool) : (s.setInService src v).port = s.port := by cases src <;> rfl
@[simp] theorem setInService_draws (s : State) (src : Source) (v : Bool) : (s.setInService src v).draws = s.draws := by cases src <;> rfl

/-! ## The running context -/

@[simp] theorem running_setRunning (s : State) (c : Ctx) : (s.setRunning c).running = c := by
  cases h : s.hs <;> simp [State.setRunning, State.running, h]

@[simp] theorem setRunning_setRunning (s : State) (c d : Ctx) : (s.setRunning c).setRunning d = s.setRunning d := by
  cases h : s.hs <;> simp [State.setRunning, h]

@[simp] theorem setRunning_running (s : State) : s.setRunning s.running = s := by
  cases s with | mk par ch1 ch2 cnt gie savedGie hs => cases hs <;> rfl

@[simp] theorem setRunning_hs_length (s : State) (c : Ctx) : (s.setRunning c).hs.length = s.hs.length := by
  unfold State.setRunning; split <;> simp_all

@[simp] theorem setRunning_sources (s : State) (c : Ctx) :
    (s.setRunning c).hs.map (·.source) = s.hs.map (·.source) := by
  unfold State.setRunning; split <;> simp_all

@[simp] theorem running_setWork (s : State) (w : List Task) :
    (s.setWork w).running = { s.running with work := w } := by simp [State.setWork]

@[simp] theorem running_pushTasks (s : State) (ts : List Task) :
    (s.pushTasks ts).running = { s.running with work := ts ++ s.running.work } := by simp [State.pushTasks]

@[simp] theorem running_setBph (s : State) (b : BPhase) : (s.setBph b).running = { s.running with bph := b } := by
  simp [State.setBph]

@[simp] theorem running_setLocals (s : State) (l : Locals) : (s.setLocals l).running = { s.running with loc := l } := by
  simp [State.setLocals]

@[simp] theorem running_setChan (s : State) (ch : Channel) (c : Chan) : (s.setChan ch c).running = s.running := by
  simp [State.running]

@[simp] theorem setWork_hs_length (s : State) (w : List Task) : (s.setWork w).hs.length = s.hs.length := by
  simp [State.setWork]

@[simp] theorem pushTasks_hs_length (s : State) (ts : List Task) : (s.pushTasks ts).hs.length = s.hs.length := by
  simp [State.pushTasks]

@[simp] theorem setBph_hs_length (s : State) (b : BPhase) : (s.setBph b).hs.length = s.hs.length := by
  simp [State.setBph]

@[simp] theorem setLocals_hs_length (s : State) (l : Locals) : (s.setLocals l).hs.length = s.hs.length := by
  simp [State.setLocals]

/-- Taking off what has been put before the work of a context gives the state back. -/
@[simp] theorem pushTasks_setWork (s : State) (ts : List Task) : (s.pushTasks ts).setWork s.running.work = s := by
  simp only [State.pushTasks, State.setWork, running_setRunning, setRunning_setRunning]
  exact setRunning_running s

theorem pushTasks_setWork_append (s : State) (t : Task) (ts : List Task) :
    (s.pushTasks (t :: ts)).setWork (ts ++ s.running.work) = s.pushTasks ts := by
  simp [State.pushTasks, State.setWork]

theorem pushTasks_pushTasks (s : State) (ts us : List Task) : (s.pushTasks ts).pushTasks us = s.pushTasks (us ++ ts) := by
  simp [State.pushTasks, State.setWork]

/-! ## Channels -/

@[simp] theorem chan_setChan_same (s : State) (ch : Channel) (c : Chan) : (s.setChan ch c).chan ch = c := by
  cases ch <;> rfl

@[simp] theorem setChan_setChan (s : State) (ch : Channel) (c d : Chan) :
    (s.setChan ch c).setChan ch d = s.setChan ch d := by cases ch <;> rfl

theorem chan_setChan_other (s : State) {ch ch' : Channel} (c : Chan) (h : ch' ≠ ch) :
    (s.setChan ch c).chan ch' = s.chan ch' := by
  cases ch <;> cases ch' <;> first | rfl | exact absurd rfl h

@[simp] theorem setChan_chan (s : State) (ch : Channel) : s.setChan ch (s.chan ch) = s := by cases ch <;> rfl

@[simp] theorem chan_setRunning (s : State) (c : Ctx) (ch : Channel) : (s.setRunning c).chan ch = s.chan ch := by
  cases ch <;> simp [State.chan]

@[simp] theorem chan_pushTasks (s : State) (ts : List Task) (ch : Channel) : (s.pushTasks ts).chan ch = s.chan ch := by
  cases ch <;> simp [State.chan]

@[simp] theorem chan_setWork (s : State) (w : List Task) (ch : Channel) : (s.setWork w).chan ch = s.chan ch := by
  cases ch <;> simp [State.chan]

/-! ## In service -/

@[simp] theorem inService_setRunning (s : State) (c : Ctx) (src : Source) :
    (s.setRunning c).inService src = s.inService src := by
  cases src <;> simp [State.inService]
  unfold State.setRunning; split <;> simp_all

@[simp] theorem inService_pushTasks (s : State) (ts : List Task) (src : Source) :
    (s.pushTasks ts).inService src = s.inService src := by simp [State.pushTasks, State.setWork]

/-- N_CH (R5): every channel is one of N_CH. -/
theorem channels_number : (∀ ch : Channel, ch ∈ [Channel.one, .two]) ∧ [Channel.one, .two].length = nCh :=
  ⟨fun ch => by cases ch <;> decide, rfl⟩

end Sys2Proof.Machine
end

