-- ==== Sys2Proof/Laws/Bus.lean ====
section
/-! SUPPORT. The run of a transfer in the core layer: one lemma per kind of step, the round of one byte, and the whole transfer
(spec/42_displaybus.md R160 to R172). Callers cite `settle_xfer` and never unfold the framer. -/

namespace Sys2Proof.Machine

/-! ## One step of a run to completion -/

@[simp] theorem pushTasks_nil (s : State) : s.pushTasks [] = s := by
  simp only [State.pushTasks, State.setWork, List.nil_append]
  exact setRunning_running s

theorem softStep_pushTasks (s : State) (t : Task) (ts : List Task) :
    (s.pushTasks (t :: ts)).softStep = (s.pushTasks ts).perform t := by
  unfold State.softStep
  simp only [running_pushTasks, List.cons_append]
  rw [pushTasks_setWork_append]

theorem setRunning_update_comm (s : State) (c : Ctx) (f : State → State)
    (hf : ∀ (u : State) (m : Ctx) (h : List Activation), f { u with main := m, hs := h } = { f u with main := m, hs := h }) :
    f (s.setRunning c) = (f s).setRunning c := by
  have hh : (f s).hs = s.hs := by simpa using congrArg State.hs (hf s s.main s.hs)
  have hm : (f s).main = s.main := by simpa using congrArg State.main (hf s s.main s.hs)
  cases h : s.hs with
  | nil =>
    have : s.setRunning c = { s with main := c, hs := s.hs } := by simp [State.setRunning, h]
    rw [this, hf]
    simp [State.setRunning, hh, h]
  | cons r rest =>
    have : s.setRunning c = { s with main := s.main, hs := { r with ctx := c } :: rest } := by simp [State.setRunning, h]
    rw [this, hf]
    simp [State.setRunning, hh, h, ← hm]

theorem serStep_mainHs (u : State) (m : Ctx) (h : List Activation) :
    ({ u with main := m, hs := h } : State).serStep = { u.serStep with main := m, hs := h } := by
  unfold State.serStep State.serShift State.serAccept State.wireEmit State.serAcceptEnabled State.nextDraw
  cases h1 : u.shbusy <;> cases h2 : u.txrdy <;> simp [h1, h2]

theorem serStep_hs (s : State) : s.serStep.hs = s.hs := by
  simpa using congrArg State.hs (serStep_mainHs s s.main s.hs)

theorem serStep_main (s : State) : s.serStep.main = s.main := by
  simpa using congrArg State.main (serStep_mainHs s s.main s.hs)

theorem serStep_running (s : State) : s.serStep.running = s.running := by
  simp [State.running, serStep_hs, serStep_main]

theorem serStep_pushTasks (s : State) (ts : List Task) : (s.pushTasks ts).serStep = s.serStep.pushTasks ts := by
  simp only [State.pushTasks, State.setWork, serStep_running]
  exact setRunning_update_comm s _ State.serStep serStep_mainHs

@[simp] theorem serEnabled_pushTasks (s : State) (ts : List Task) : (s.pushTasks ts).serEnabled = s.serEnabled := by
  simp [State.serEnabled, State.serAcceptEnabled]

/-- A run to the given depth and work has not come to its end: the stack is deeper, or the work is at least what is to be left
and more is about to be put before it. -/
@[simp] def State.within (s : State) (depth left : Nat) : Prop :=
  depth < s.hs.length ∨ (depth = s.hs.length ∧ left ≤ s.running.work.length)

theorem settled_pushTasks (s : State) (t : Task) (ts : List Task) {depth left : Nat} (h : s.within depth left) :
    (s.pushTasks (t :: ts)).settled depth left = false := by
  simp only [State.within] at h
  simp [State.settled]
  omega

/-- While a context has a task more than where the run is to end, and the peripheral has no step, the run goes on with it. -/
theorem settle_perform (s : State) (t : Task) {depth left : Nat} (fuel : Nat) (hd : s.within depth left) (hs : (s.par.serLive && s.serEnabled) = false) :
    State.settle depth left (fuel + 1) (s.pushTasks [t]) = State.settle depth left fuel (s.perform t) := by
  rw [State.settle, settled_pushTasks s t [] hd]
  simp only [Bool.false_eq_true, if_false, State.coreStep, pushTasks_par, serEnabled_pushTasks, hs, softStep_pushTasks,
    pushTasks_nil]

/-- The same with more work behind the task. -/
theorem settle_perform_cons (s : State) (t : Task) (ts : List Task) {depth left : Nat} (fuel : Nat)
    (hd : s.within depth left) (hs : (s.par.serLive && s.serEnabled) = false) :
    State.settle depth left (fuel + 1) (s.pushTasks (t :: ts)) =
      State.settle depth left fuel ((s.pushTasks ts).perform t) := by
  rw [State.settle, settled_pushTasks s t ts hd]
  simp only [Bool.false_eq_true, if_false, State.coreStep, pushTasks_par, serEnabled_pushTasks, hs, softStep_pushTasks]

/-- A live peripheral's step comes first. -/
theorem settle_serial (s : State) (t : Task) {depth left : Nat} (fuel : Nat) (hd : s.within depth left) (hs : (s.par.serLive && s.serEnabled) = true) :
    State.settle depth left (fuel + 1) (s.pushTasks [t]) = State.settle depth left fuel (s.serStep.pushTasks [t]) := by
  rw [State.settle, settled_pushTasks s t [] hd]
  simp only [Bool.false_eq_true, if_false, State.coreStep, pushTasks_par, serEnabled_pushTasks, hs, if_true,
    serStep_pushTasks]

/-- Where the run has come to its end it stays. -/
theorem settle_of_settled (s : State) (depth left fuel : Nat) (h : s.settled depth left = true) :
    State.settle depth left fuel s = s := by
  cases fuel <;> simp [State.settle, h]

/-! ## The round of one byte -/

/-- Load, accept and shift of the byte at XIDX (R164, R170, R171). -/
def byteRound (s : State) : State :=
  { s with
    txbuf := getByte s.xbuf s.xidx
    shreg := getByte s.xbuf s.xidx
    xidx := s.xidx + 1
    xph := if s.xidx + 1 = s.xlen then .waitIdle else .byte
    wire := s.wire ++ [.byte s.cd (getByte s.xbuf s.xidx)]
    rxbuf := (Config.draw s.draws).rx
    rxfull := true
    sclk := (Config.draw s.draws).sclk
    mosi := (Config.draw s.draws).mosi
    draws := s.draws + 1 }

theorem settle_byteRound (s : State) {depth left : Nat} (fuel : Nat) (hd : s.within depth left) (live : s.par.serLive = true) (hx : s.xph = .byte) (ht : s.txrdy = true)
    (hb : s.shbusy = false) :
    State.settle depth left (fuel + 3) (s.pushTasks [.framer]) =
      State.settle depth left fuel ((byteRound s).pushTasks [.framer]) := by
  refine (settle_perform s .framer (fuel + 2) hd (by simp [State.serEnabled, State.serAcceptEnabled, ht, hb])).trans ?_
  simp only [State.perform, State.framerStep, hx, State.phaseByte, ht, if_true]
  refine (settle_serial _ _ (fuel + 1) (by exact hd)
    (by simp [State.serEnabled, State.serAcceptEnabled, live, hb])).trans ?_
  simp only [State.serStep, hb, Bool.false_eq_true, if_false, State.serAccept, State.serAcceptEnabled, Bool.not_false,
    Bool.and_true, if_true]
  refine (settle_serial _ _ fuel (by exact hd)
    (by simp [State.serEnabled, State.serAcceptEnabled, live])).trans ?_
  simp only [State.serStep, if_true, State.serShift, State.wireEmit, State.nextDraw, byteRound, ht, hb]

/-- n rounds. -/
def byteRounds : Nat → State → State
  | 0, s => s
  | n + 1, s => byteRound (byteRounds n s)

/-- What n rounds leave, as long as they stay inside the transfer. -/
theorem byteRounds_eq (n : Nat) (s : State) :
    byteRounds (n + 1) s =
      { s with
        txbuf := getByte s.xbuf (s.xidx + n)
        shreg := getByte s.xbuf (s.xidx + n)
        xidx := s.xidx + (n + 1)
        xph := if s.xidx + (n + 1) = s.xlen then .waitIdle else .byte
        wire := s.wire ++ (List.range (n + 1)).map (fun i => .byte s.cd (getByte s.xbuf (s.xidx + i)))
        rxbuf := (Config.draw (s.draws + n)).rx
        rxfull := true
        sclk := (Config.draw (s.draws + n)).sclk
        mosi := (Config.draw (s.draws + n)).mosi
        draws := s.draws + (n + 1) } := by
  induction n with
  | zero => rfl
  | succ n ih =>
    show byteRound (byteRounds (n + 1) s) = _
    rw [ih]
    simp only [byteRound, List.append_assoc, List.range_succ (n := n + 1), List.map_append, List.map_cons, List.map_nil,
      Nat.add_assoc]

theorem settle_byteRounds (n : Nat) (s : State) {depth left : Nat} (fuel : Nat) (hd : s.within depth left) (live : s.par.serLive = true) (hx : s.xph = .byte) (ht : s.txrdy = true)
    (hb : s.shbusy = false) (hn : s.xidx + n ≤ s.xlen) :
    State.settle depth left (3 * n + fuel) (s.pushTasks [.framer]) =
      State.settle depth left fuel ((byteRounds n s).pushTasks [.framer]) := by
  induction n generalizing fuel with
  | zero => simp [byteRounds]
  | succ n ih =>
    rw [show 3 * (n + 1) + fuel = 3 * n + (fuel + 3) by omega, ih (fuel + 3) (by omega)]
    cases n with
    | zero => exact settle_byteRound s fuel hd live hx ht hb
    | succ k =>
      show _ = State.settle _ _ _ ((byteRound (byteRounds (k + 1) s)).pushTasks [.framer])
      rw [byteRounds_eq]
      exact settle_byteRound _ fuel hd live (by simp; omega) ht hb

/-! ## The whole transfer -/

/-- The fuel a transfer of n bytes takes: n + 7 framer steps and 2n peripheral steps (R279). -/
def xferFuel (n : Nat) : Nat := 3 * n + 7

theorem xferCheck_ready (s : State) {n : Nat} (h1 : 1 ≤ n) (h6 : n ≤ xferMaxLen) (hr : s.busReady = true) :
    xferCheck n s = none := by
  simp only [State.busReady, Bool.and_eq_true, decide_eq_true_eq] at hr
  have : ¬ (n = 0 ∨ xferMaxLen < n) := by omega
  simp [xferCheck, this, hr.1.1.2]

theorem getByte_loadBytes (n : Nat) (b old : Bytes6) {i : Nat} (hi : i < n) (hn : n ≤ 6) :
    getByte (loadBytes n b old) i = getByte b i := by
  have : i < 6 := by omega
  interval_cases i <;> simp [getByte, loadBytes] <;> omega

/-- A transfer from a ready bus runs to its end (R160, R172): it takes `xferFuel n` steps and leaves `afterXfer`. -/
theorem settle_xfer (m : Mode) (n : Nat) (b : Bytes6) (s : State) {depth left : Nat} (fuel : Nat)
    (hd : s.within depth left) (hr : s.busReady = true) (h1 : 1 ≤ n)
    (h6 : n ≤ xferMaxLen) :
    State.settle depth left (xferFuel n + fuel) (s.pushTasks [.xfer m n b]) =
      State.settle depth left fuel (afterXfer m n b s) := by
  have hc := xferCheck_ready s h1 h6 hr
  simp only [State.busReady, Bool.and_eq_true, decide_eq_true_eq, Bool.not_eq_true'] at hr
  obtain ⟨⟨⟨live, hx⟩, ht⟩, hb⟩ := hr
  obtain ⟨k, rfl⟩ : ∃ k, n = k + 1 := ⟨n - 1, by omega⟩
  have idle : ∀ u : State, u.txrdy = true → u.shbusy = false → (u.par.serLive && u.serEnabled) = false := by
    intro u h1 h2; simp [State.serEnabled, State.serAcceptEnabled, h1, h2]
  rw [show xferFuel (k + 1) + fuel = (3 * (k + 1) + (fuel + 1 + 1 + 1 + 1)) + 1 + 1 + 1 by simp [xferFuel]; omega]
  refine (settle_perform _ _ _ hd (idle s ht hb)).trans ?_
  simp only [State.perform, State.startXfer, hc]
  refine (settle_perform _ _ _ (by exact hd) (idle _ (by exact ht) (by exact hb))).trans ?_
  simp only [State.perform, State.framerStep, State.phaseSelect, State.wireEmit]
  refine (settle_perform _ _ _ (by exact hd) (idle _ (by exact ht) (by exact hb))).trans ?_
  simp only [State.perform, State.framerStep, State.phaseMode, State.wireEmit]
  refine (settle_byteRounds (k + 1) _ _ (by exact hd) (by exact live) (by rfl) (by exact ht) (by exact hb)
    (by simp)).trans ?_
  rw [byteRounds_eq]
  simp only [Nat.zero_add, if_true]
  refine (settle_perform _ _ _ (by exact hd) (idle _ (by exact ht) (by exact hb))).trans ?_
  simp only [State.perform, State.framerStep, State.phaseWaitIdle, State.busy, ht, hb, Bool.not_true, Bool.or_self,
    Bool.false_eq_true, if_false]
  refine (settle_perform _ _ _ (by exact hd) (idle _ (by rfl) (by rfl))).trans ?_
  simp only [State.perform, State.framerStep, State.phaseDrain]
  refine (settle_perform _ _ _ (by exact hd) (idle _ (by rfl) (by rfl))).trans ?_
  simp only [State.perform, State.framerStep, State.phaseDeselect, State.wireEmit]
  refine (settle_perform _ _ _ (by exact hd) (idle _ (by rfl) (by rfl))).trans ?_
  simp only [State.perform, State.framerStep, State.phaseRestore, afterXfer]
  have hlast : getByte (loadBytes (k + 1) b s.xbuf) k = getByte b k := getByte_loadBytes _ _ _ (by omega) h6
  have hmap : (List.range (k + 1)).map (fun i => WireEvent.byte m (getByte (loadBytes (k + 1) b s.xbuf) i)) =
      (bytesUpTo (k + 1) b).map (.byte m) := by
    rw [bytesUpTo, List.map_map]
    refine List.map_congr_left fun i hi => ?_
    simp only [Function.comp]
    rw [getByte_loadBytes _ _ _ (List.mem_range.1 hi) h6]
  congr 1
  cases s
  simp_all [frame]

end Sys2Proof.Machine
end

