-- ==== Sys2Proof/Laws/Step.lean ====
section
/-! SUPPORT. What a step can do, said once: every step is built from the agents' steps, entries, calls and the environment's
writes, so a property that each of these keeps is kept by every step. -/

namespace Sys2Proof.Machine

/-- A run to completion keeps what the two agents' steps keep. -/
theorem settle_keeps (P : State → Prop) (hser : ∀ s, P s → P s.serStep) (hsoft : ∀ s, P s → P s.softStep)
    (depth left fuel : Nat) (s : State) (h : P s) : P (State.settle depth left fuel s) := by
  induction fuel generalizing s with
  | zero => exact h
  | succ n ih =>
    rw [State.settle]
    split
    · exact h
    · refine ih _ ?_
      unfold State.coreStep
      split
      · exact hser s h
      · exact hsoft s h

/-- The highest deliverable source is deliverable (R237). -/
theorem highestDeliverable_deliverable (s : State) (src : Source) (h : s.highestDeliverable = some src) :
    s.deliverable src = true := by
  have key : ∀ (l : List Source) (best : Option Source), (∀ b, best = some b → s.deliverable b = true) →
      ∀ b, l.foldl
        (fun best src =>
          if s.deliverable src then
            match best with
            | none => some src
            | some b => if rankOf s.par.irqRank b < rankOf s.par.irqRank src then some src else some b
          else best) best = some b → s.deliverable b = true := by
    intro l
    induction l with
    | nil => intro best hb b hbest; exact hb b hbest
    | cons a rest ih =>
      intro best hb b hfold
      refine ih _ ?_ b hfold
      intro b' hb'
      dsimp only at hb'
      split at hb'
      · rename_i ha
        split at hb'
        · cases hb'; exact ha
        · split at hb'
          · cases hb'; exact ha
          · cases hb'; exact hb _ rfl
      · exact hb b' hb'
  exact key allSources none (by simp) src h

/-- A request record of the instruction `i` may come. -/
def mayCome (A : Move → Prop) (i : Instr) : Prop := ∃ r, (A (.request r) ∨ A (.issue r)) ∧ decode r = .instr i

/-- What a property must survive to be kept by every step that makes a move of the kind `A`, or the move made when none is
listed. -/
structure Kept (A : Move → Prop) (P : State → Prop) : Prop where
  port : ∀ s ms, P s → P { s with port := ms }
  serAccept : ∀ s, P s → P s.serAccept
  serShift : ∀ s, P s → P s.serShift
  softStep : ∀ s, P s → P s.softStep
  enter : ∀ s src, s.inService src = false → s.gie = true ∨ (s.xph = .idle ∧ ∃ r, A (.request r)) → P s → P (s.enter src)
  call : ∀ s t, t.isHandler = false → (∃ i, mayCome A i ∧ opTask i = some t) → P s → P (s.pushTasks [t])
  tick : mayCome A .tick → ∀ s, P s → P s.tick
  button : ∀ s ch level, mayCome A (.btnset ch level) → P s → P (s.setButton ch level)
  refuse : ∀ s, P s → P (s.refuse .selector)
  otherRequest : A .tmrOtherRequest → ∀ s, P s → P { s with tmrOtherPend := true }
  gie : ∀ s v, A (.setGie v) → s.mainIdle = true → P s → P { s with gie := v }
  backlight : ∀ s v, A (.setBacklight v) → P s → P { s with bl := v }
  reset : A .reset → ∀ s, P s → P s.resetEvent

theorem opTask_not_handler (i : Instr) (t : Task) (h : opTask i = some t) : t.isHandler = false := by
  cases i <;> simp [opTask] at h <;> subst h <;> rfl

namespace Kept

variable {A : Move → Prop} {P : State → Prop}

theorem serStep (k : Kept A P) (s : State) (h : P s) : P s.serStep := by
  unfold State.serStep
  split
  · exact k.serShift s h
  · exact k.serAccept s h

theorem callOp (k : Kept A P) (s : State) (t : Task) (i : Instr) (hi : mayCome A i) (ht : opTask i = some t) (h : P s) :
    P (s.callOp t) :=
  settle_keeps P k.serStep k.softStep _ _ _ _ (k.call s t (opTask_not_handler i t ht) ⟨i, hi, ht⟩ h)

theorem inject (k : Kept A P) (s : State) (src : Source) (hA : ∃ r, A (.request r)) (h : P s) : P (s.inject src) := by
  unfold State.inject
  split
  · exact h
  · rename_i hn
    simp only [Bool.or_eq_true, decide_eq_true_eq, not_or, not_not, Bool.not_eq_true] at hn
    exact settle_keeps P k.serStep k.softStep _ _ _ _ (k.enter s src hn.1 (.inr ⟨hn.2, hA⟩) h)

theorem deliver (k : Kept A P) (s : State) (src : Source) (h : P s) : P (s.deliver src) := by
  unfold State.deliver
  split
  · rename_i hd
    simp only [State.deliverable, Bool.and_eq_true, Bool.not_eq_true'] at hd
    exact k.enter s src hd.2 (.inl hd.1.2) h
  · exact h

/-- Every instruction that may come keeps it; an interrupt event only where requests to the core layer may come. -/
theorem exec (k : Kept A P) (i : Instr) (s s' : State) (hi : mayCome A i) (hA : (∃ r, A (.request r)) ∨ eventSource i = none)
    (h : P s) (hx : exec i s = .next s') : P s' := by
  cases i <;>
    simp only [Machine.exec, execPinchg1, execPinchg2, execDlexp1, execDlexp2, execTmrother, execTick, execBtnset,
      execReserved7, execReservedEF, execXfer, execSetpos, execGlyph, execRender, execInvert, execCntstep, execWColhi,
      execWCollo, execWPage, execWInv, execWData, Host.Outcome.next.injEq] at hx <;>
    subst hx
  case pinchg1 => exact k.inject s _ (hA.resolve_right (by simp [eventSource])) h
  case pinchg2 => exact k.inject s _ (hA.resolve_right (by simp [eventSource])) h
  case dlexp1 => exact k.inject s _ (hA.resolve_right (by simp [eventSource])) h
  case dlexp2 => exact k.inject s _ (hA.resolve_right (by simp [eventSource])) h
  case tmrother => exact k.inject s _ (hA.resolve_right (by simp [eventSource])) h
  case tick => exact k.tick hi s h
  case btnset => exact k.button s _ _ hi h
  case reserved7 => exact k.refuse s h
  case reservedEF => exact k.refuse s h
  all_goals exact k.callOp s _ _ hi rfl h

/-- Every step keeps it whose next move, if one is listed, is of the kind `A`. -/
theorem step (k : Kept A P) (s s' : State) (hm : ∀ m ∈ s.port.head?, A m) (h : P s) (hx : step s = .next s') : P s' := by
  unfold Machine.step at hx
  split at hx
  · cases hx
    unfold State.autoStep
    split
    · exact k.serStep s h
    · split
      · rename_i src hsrc
        have := highestDeliverable_deliverable s src hsrc
        simp only [State.deliverable, Bool.and_eq_true, Bool.not_eq_true'] at this
        exact k.enter s src this.2 (.inl this.1.2) h
      · exact k.softStep s h
  · rename_i m rest hport
    have hA : A m := hm m (by simp [hport])
    have h' := k.port s rest h
    clear hm hport
    revert hx h'
    generalize ({ s with port := rest } : State) = u
    intro hx hu
    cases m <;> simp only [State.move] at hx
    case request r =>
      unfold State.request at hx
      split at hx
      · rename_i i hd
        exact k.exec i u s' ⟨r, .inl hA, hd⟩ (.inl ⟨r, hA⟩) hu hx
      · cases hx
    case issue r =>
      unfold State.issue at hx
      split at hx
      · rename_i i hd
        unfold State.issueInstr at hx
        split at hx
        · rename_i t ht
          cases hx
          split
          · exact k.call u t (opTask_not_handler i t ht) ⟨i, ⟨r, .inr hA, hd⟩, ht⟩ hu
          · exact hu
        · split at hx
          · cases hx; exact k.deliver u _ hu
          · rename_i hsrc
            exact k.exec i u s' ⟨r, .inr hA, hd⟩ (.inr hsrc) hu hx
      · cases hx
    case run => cases hx; exact k.softStep u hu
    case serAccept => cases hx; exact k.serAccept u hu
    case serShift => cases hx; exact k.serShift u hu
    case deliver => cases hx; exact k.deliver u _ hu
    case tmrOtherRequest => cases hx; exact k.otherRequest hA u hu
    case setGie =>
      cases hx
      unfold State.writeGie
      split
      · rename_i hi; exact k.gie u _ hA hi hu
      · exact hu
    case setBacklight => cases hx; exact k.backlight u _ hA hu
    case reset => cases hx; exact k.reset hA u hu

end Kept

end Sys2Proof.Machine
end

