-- ==== Sys2Proof/Laws/Handlers.lean ====
section
/-! SUPPORT. One lemma per field for taking an interrupt (spec/60_exceptions.md R234), returning from one (R235), and the writes of
the timer and the debouncer; then what a handler's run in the core layer comes to. -/

namespace Sys2Proof.Machine

/-! ## Return and entry, field by field -/

@[simp] theorem returnFromHandler_par (s : State) : s.returnFromHandler.par = s.par := by
  unfold State.returnFromHandler; split <;> simp
@[simp] theorem returnFromHandler_cnt (s : State) : s.returnFromHandler.cnt = s.cnt := by
  unfold State.returnFromHandler; split <;> simp
@[simp] theorem returnFromHandler_savedGie (s : State) : s.returnFromHandler.savedGie = s.savedGie := by
  unfold State.returnFromHandler; split <;> simp
@[simp] theorem returnFromHandler_tmrOtherPend (s : State) : s.returnFromHandler.tmrOtherPend = s.tmrOtherPend := by
  unfold State.returnFromHandler; split <;> simp
@[simp] theorem returnFromHandler_main (s : State) : s.returnFromHandler.main = s.main := by
  unfold State.returnFromHandler; split <;> simp
@[simp] theorem returnFromHandler_cs (s : State) : s.returnFromHandler.cs = s.cs := by
  unfold State.returnFromHandler; split <;> simp
@[simp] theorem returnFromHandler_cd (s : State) : s.returnFromHandler.cd = s.cd := by
  unfold State.returnFromHandler; split <;> simp
@[simp] theorem returnFromHandler_xph (s : State) : s.returnFromHandler.xph = s.xph := by
  unfold State.returnFromHandler; split <;> simp
@[simp] theorem returnFromHandler_xmode (s : State) : s.returnFromHandler.xmode = s.xmode := by
  unfold State.returnFromHandler; split <;> simp
@[simp] theorem returnFromHandler_xlen (s : State) : s.returnFromHandler.xlen = s.xlen := by
  unfold State.returnFromHandler; split <;> simp
@[simp] theorem returnFromHandler_xidx (s : State) : s.returnFromHandler.xidx = s.xidx := by
  unfold State.returnFromHandler; split <;> simp
@[simp] theorem returnFromHandler_xbuf (s : State) : s.returnFromHandler.xbuf = s.xbuf := by
  unfold State.returnFromHandler; split <;> simp
@[simp] theorem returnFromHandler_txbuf (s : State) : s.returnFromHandler.txbuf = s.txbuf := by
  unfold State.returnFromHandler; split <;> simp
@[simp] theorem returnFromHandler_txrdy (s : State) : s.returnFromHandler.txrdy = s.txrdy := by
  unfold State.returnFromHandler; split <;> simp
@[simp] theorem returnFromHandler_shreg (s : State) : s.returnFromHandler.shreg = s.shreg := by
  unfold State.returnFromHandler; split <;> simp
@[simp] theorem returnFromHandler_shbusy (s : State) : s.returnFromHandler.shbusy = s.shbusy := by
  unfold State.returnFromHandler; split <;> simp
@[simp] theorem returnFromHandler_rxbuf (s : State) : s.returnFromHandler.rxbuf = s.rxbuf := by
  unfold State.returnFromHandler; split <;> simp
@[simp] theorem returnFromHandler_rxfull (s : State) : s.returnFromHandler.rxfull = s.rxfull := by
  unfold State.returnFromHandler; split <;> simp
@[simp] theorem returnFromHandler_sclk (s : State) : s.returnFromHandler.sclk = s.sclk := by
  unfold State.returnFromHandler; split <;> simp
@[simp] theorem returnFromHandler_mosi (s : State) : s.returnFromHandler.mosi = s.mosi := by
  unfold State.returnFromHandler; split <;> simp
@[simp] theorem returnFromHandler_bl (s : State) : s.returnFromHandler.bl = s.bl := by
  unfold State.returnFromHandler; split <;> simp
@[simp] theorem returnFromHandler_pol (s : State) : s.returnFromHandler.pol = s.pol := by
  unfold State.returnFromHandler; split <;> simp
@[simp] theorem returnFromHandler_counter (s : State) : s.returnFromHandler.counter = s.counter := by
  unfold State.returnFromHandler; split <;> simp
@[simp] theorem returnFromHandler_wire (s : State) : s.returnFromHandler.wire = s.wire := by
  unfold State.returnFromHandler; split <;> simp
@[simp] theorem returnFromHandler_actlog (s : State) : s.returnFromHandler.actlog = s.actlog := by
  unfold State.returnFromHandler; split <;> simp
@[simp] theorem returnFromHandler_refused (s : State) : s.returnFromHandler.refused = s.refused := by
  unfold State.returnFromHandler; split <;> simp
@[simp] theorem returnFromHandler_reasons (s : State) : s.returnFromHandler.reasons = s.reasons := by
  unfold State.returnFromHandler; split <;> simp
@[simp] theorem returnFromHandler_port (s : State) : s.returnFromHandler.port = s.port := by
  unfold State.returnFromHandler; split <;> simp
@[simp] theorem returnFromHandler_draws (s : State) : s.returnFromHandler.draws = s.draws := by
  unfold State.returnFromHandler; split <;> simp
@[simp] theorem returnFromHandler_ch1_btn (s : State) : s.returnFromHandler.ch1.btn = s.ch1.btn := by
  unfold State.returnFromHandler State.setInService; split
  · rfl
  · dsimp only; split <;> rfl
@[simp] theorem returnFromHandler_ch1_edgeSel (s : State) : s.returnFromHandler.ch1.edgeSel = s.ch1.edgeSel := by
  unfold State.returnFromHandler State.setInService; split
  · rfl
  · dsimp only; split <;> rfl
@[simp] theorem returnFromHandler_ch1_pinIfg (s : State) : s.returnFromHandler.ch1.pinIfg = s.ch1.pinIfg := by
  unfold State.returnFromHandler State.setInService; split
  · rfl
  · dsimp only; split <;> rfl
@[simp] theorem returnFromHandler_ch1_supp (s : State) : s.returnFromHandler.ch1.supp = s.ch1.supp := by
  unfold State.returnFromHandler State.setInService; split
  · rfl
  · dsimp only; split <;> rfl
@[simp] theorem returnFromHandler_ch1_dlValid (s : State) : s.returnFromHandler.ch1.dlValid = s.ch1.dlValid := by
  unfold State.returnFromHandler State.setInService; split
  · rfl
  · dsimp only; split <;> rfl
@[simp] theorem returnFromHandler_ch1_dlExp (s : State) : s.returnFromHandler.ch1.dlExp = s.ch1.dlExp := by
  unfold State.returnFromHandler State.setInService; split
  · rfl
  · dsimp only; split <;> rfl
@[simp] theorem returnFromHandler_ch1_cmpIe (s : State) : s.returnFromHandler.ch1.cmpIe = s.ch1.cmpIe := by
  unfold State.returnFromHandler State.setInService; split
  · rfl
  · dsimp only; split <;> rfl
@[simp] theorem returnFromHandler_ch1_cmpIfg (s : State) : s.returnFromHandler.ch1.cmpIfg = s.ch1.cmpIfg := by
  unfold State.returnFromHandler State.setInService; split
  · rfl
  · dsimp only; split <;> rfl
@[simp] theorem returnFromHandler_ch1_dph (s : State) : s.returnFromHandler.ch1.dph = s.ch1.dph := by
  unfold State.returnFromHandler State.setInService; split
  · rfl
  · dsimp only; split <;> rfl
@[simp] theorem returnFromHandler_ch2_btn (s : State) : s.returnFromHandler.ch2.btn = s.ch2.btn := by
  unfold State.returnFromHandler State.setInService; split
  · rfl
  · dsimp only; split <;> rfl
@[simp] theorem returnFromHandler_ch2_edgeSel (s : State) : s.returnFromHandler.ch2.edgeSel = s.ch2.edgeSel := by
  unfold State.returnFromHandler State.setInService; split
  · rfl
  · dsimp only; split <;> rfl
@[simp] theorem returnFromHandler_ch2_pinIfg (s : State) : s.returnFromHandler.ch2.pinIfg = s.ch2.pinIfg := by
  unfold State.returnFromHandler State.setInService; split
  · rfl
  · dsimp only; split <;> rfl
@[simp] theorem returnFromHandler_ch2_supp (s : State) : s.returnFromHandler.ch2.supp = s.ch2.supp := by
  unfold State.returnFromHandler State.setInService; split
  · rfl
  · dsimp only; split <;> rfl
@[simp] theorem returnFromHandler_ch2_dlValid (s : State) : s.returnFromHandler.ch2.dlValid = s.ch2.dlValid := by
  unfold State.returnFromHandler State.setInService; split
  · rfl
  · dsimp only; split <;> rfl
@[simp] theorem returnFromHandler_ch2_dlExp (s : State) : s.returnFromHandler.ch2.dlExp = s.ch2.dlExp := by
  unfold State.returnFromHandler State.setInService; split
  · rfl
  · dsimp only; split <;> rfl
@[simp] theorem returnFromHandler_ch2_cmpIe (s : State) : s.returnFromHandler.ch2.cmpIe = s.ch2.cmpIe := by
  unfold State.returnFromHandler State.setInService; split
  · rfl
  · dsimp only; split <;> rfl
@[simp] theorem returnFromHandler_ch2_cmpIfg (s : State) : s.returnFromHandler.ch2.cmpIfg = s.ch2.cmpIfg := by
  unfold State.returnFromHandler State.setInService; split
  · rfl
  · dsimp only; split <;> rfl
@[simp] theorem returnFromHandler_ch2_dph (s : State) : s.returnFromHandler.ch2.dph = s.ch2.dph := by
  unfold State.returnFromHandler State.setInService; split
  · rfl
  · dsimp only; split <;> rfl

theorem returnFromHandler_hs (s : State) : s.returnFromHandler.hs = s.hs.tail := by
  unfold State.returnFromHandler; split <;> simp_all
@[simp] theorem enter_par (s : State) (src : Source) : (s.enter src).par = s.par := by simp [State.enter]
@[simp] theorem enter_cnt (s : State) (src : Source) : (s.enter src).cnt = s.cnt := by simp [State.enter]
@[simp] theorem enter_savedGie (s : State) (src : Source) : (s.enter src).savedGie = s.savedGie := by simp [State.enter]
@[simp] theorem enter_tmrOtherPend (s : State) (src : Source) : (s.enter src).tmrOtherPend = s.tmrOtherPend := by simp [State.enter]
@[simp] theorem enter_main (s : State) (src : Source) : (s.enter src).main = s.main := by simp [State.enter]
@[simp] theorem enter_cs (s : State) (src : Source) : (s.enter src).cs = s.cs := by simp [State.enter]
@[simp] theorem enter_cd (s : State) (src : Source) : (s.enter src).cd = s.cd := by simp [State.enter]
@[simp] theorem enter_xph (s : State) (src : Source) : (s.enter src).xph = s.xph := by simp [State.enter]
@[simp] theorem enter_xmode (s : State) (src : Source) : (s.enter src).xmode = s.xmode := by simp [State.enter]
@[simp] theorem enter_xlen (s : State) (src : Source) : (s.enter src).xlen = s.xlen := by simp [State.enter]
@[simp] theorem enter_xidx (s : State) (src : Source) : (s.enter src).xidx = s.xidx := by simp [State.enter]
@[simp] theorem enter_xbuf (s : State) (src : Source) : (s.enter src).xbuf = s.xbuf := by simp [State.enter]
@[simp] theorem enter_txbuf (s : State) (src : Source) : (s.enter src).txbuf = s.txbuf := by simp [State.enter]
@[simp] theorem enter_txrdy (s : State) (src : Source) : (s.enter src).txrdy = s.txrdy := by simp [State.enter]
@[simp] theorem enter_shreg (s : State) (src : Source) : (s.enter src).shreg = s.shreg := by simp [State.enter]
@[simp] theorem enter_shbusy (s : State) (src : Source) : (s.enter src).shbusy = s.shbusy := by simp [State.enter]
@[simp] theorem enter_rxbuf (s : State) (src : Source) : (s.enter src).rxbuf = s.rxbuf := by simp [State.enter]
@[simp] theorem enter_rxfull (s : State) (src : Source) : (s.enter src).rxfull = s.rxfull := by simp [State.enter]
@[simp] theorem enter_sclk (s : State) (src : Source) : (s.enter src).sclk = s.sclk := by simp [State.enter]
@[simp] theorem enter_mosi (s : State) (src : Source) : (s.enter src).mosi = s.mosi := by simp [State.enter]
@[simp] theorem enter_bl (s : State) (src : Source) : (s.enter src).bl = s.bl := by simp [State.enter]
@[simp] theorem enter_pol (s : State) (src : Source) : (s.enter src).pol = s.pol := by simp [State.enter]
@[simp] theorem enter_counter (s : State) (src : Source) : (s.enter src).counter = s.counter := by simp [State.enter]
@[simp] theorem enter_wire (s : State) (src : Source) : (s.enter src).wire = s.wire := by simp [State.enter]
@[simp] theorem enter_actlog (s : State) (src : Source) : (s.enter src).actlog = s.actlog := by simp [State.enter]
@[simp] theorem enter_refused (s : State) (src : Source) : (s.enter src).refused = s.refused := by simp [State.enter]
@[simp] theorem enter_reasons (s : State) (src : Source) : (s.enter src).reasons = s.reasons := by simp [State.enter]
@[simp] theorem enter_port (s : State) (src : Source) : (s.enter src).port = s.port := by simp [State.enter]
@[simp] theorem enter_ch1_btn (s : State) (src : Source) : (s.enter src).ch1.btn = s.ch1.btn := by cases src <;> rfl
@[simp] theorem enter_ch1_edgeSel (s : State) (src : Source) : (s.enter src).ch1.edgeSel = s.ch1.edgeSel := by cases src <;> rfl
@[simp] theorem enter_ch1_pinIfg (s : State) (src : Source) : (s.enter src).ch1.pinIfg = s.ch1.pinIfg := by cases src <;> rfl
@[simp] theorem enter_ch1_supp (s : State) (src : Source) : (s.enter src).ch1.supp = s.ch1.supp := by cases src <;> rfl
@[simp] theorem enter_ch1_dlValid (s : State) (src : Source) : (s.enter src).ch1.dlValid = s.ch1.dlValid := by cases src <;> rfl
@[simp] theorem enter_ch1_dlExp (s : State) (src : Source) : (s.enter src).ch1.dlExp = s.ch1.dlExp := by cases src <;> rfl
@[simp] theorem enter_ch1_cmpIe (s : State) (src : Source) : (s.enter src).ch1.cmpIe = s.ch1.cmpIe := by cases src <;> rfl
@[simp] theorem enter_ch1_cmpIfg (s : State) (src : Source) : (s.enter src).ch1.cmpIfg = s.ch1.cmpIfg := by cases src <;> rfl
@[simp] theorem enter_ch1_dph (s : State) (src : Source) : (s.enter src).ch1.dph = s.ch1.dph := by cases src <;> rfl
@[simp] theorem enter_ch2_btn (s : State) (src : Source) : (s.enter src).ch2.btn = s.ch2.btn := by cases src <;> rfl
@[simp] theorem enter_ch2_edgeSel (s : State) (src : Source) : (s.enter src).ch2.edgeSel = s.ch2.edgeSel := by cases src <;> rfl
@[simp] theorem enter_ch2_pinIfg (s : State) (src : Source) : (s.enter src).ch2.pinIfg = s.ch2.pinIfg := by cases src <;> rfl
@[simp] theorem enter_ch2_supp (s : State) (src : Source) : (s.enter src).ch2.supp = s.ch2.supp := by cases src <;> rfl
@[simp] theorem enter_ch2_dlValid (s : State) (src : Source) : (s.enter src).ch2.dlValid = s.ch2.dlValid := by cases src <;> rfl
@[simp] theorem enter_ch2_dlExp (s : State) (src : Source) : (s.enter src).ch2.dlExp = s.ch2.dlExp := by cases src <;> rfl
@[simp] theorem enter_ch2_cmpIe (s : State) (src : Source) : (s.enter src).ch2.cmpIe = s.ch2.cmpIe := by cases src <;> rfl
@[simp] theorem enter_ch2_cmpIfg (s : State) (src : Source) : (s.enter src).ch2.cmpIfg = s.ch2.cmpIfg := by cases src <;> rfl
@[simp] theorem enter_ch2_dph (s : State) (src : Source) : (s.enter src).ch2.dph = s.ch2.dph := by cases src <;> rfl

end Sys2Proof.Machine
end

