-- ==== Sys2Proof/Laws/Channels.lean ====
section
/-! SUPPORT. The channel invariant (spec/40_debounce.md R126) and the ranges of the W- and V-bit registers (spec/10_state.md R27,
R30, R47), kept by each agent's step. -/

namespace Sys2Proof.Machine

/-! ## The channel invariant -/

/-- What the channel invariant reads of a channel. -/
theorem armedTogether_congr {c d : Chan} (h1 : d.supp = c.supp) (h2 : d.dlValid = c.dlValid) (h3 : d.cmpIe = c.cmpIe)
    (h4 : d.cmpIfg = c.cmpIfg) (h5 : d.dph = c.dph ∨ d.dph ≠ .act) (h : c.armedTogether) : d.armedTogether := by
  obtain ⟨a1, a2, a3, a4⟩ := h
  refine ⟨by rw [h2, h1, a1], by rw [h3, h1, a2], by rw [h4, h2]; exact a3, fun hd => ?_⟩
  rcases h5 with h5 | h5
  · rw [h1]; exact a4 (h5 ▸ hd)
  · exact absurd hd h5

theorem chanInv_congr {s t : State} (h1 : t.ch1 = s.ch1) (h2 : t.ch2 = s.ch2) (h : s.chanInv) : t.chanInv := by
  simpa [State.chanInv, h1, h2] using h

theorem chanInv_chan {s : State} (h : s.chanInv) (ch : Channel) : (s.chan ch).armedTogether := by
  cases ch
  · exact h.1
  · exact h.2

theorem chanInv_setChan {s : State} (h : s.chanInv) (ch : Channel) {c : Chan} (hc : c.armedTogether) :
    (s.setChan ch c).chanInv := by
  cases ch
  · exact ⟨hc, h.2⟩
  · exact ⟨h.1, hc⟩

theorem chanInv_return {s : State} (h : s.chanInv) : s.returnFromHandler.chanInv :=
  ⟨armedTogether_congr (by simp) (by simp) (by simp) (by simp) (.inl (by simp)) h.1,
    armedTogether_congr (by simp) (by simp) (by simp) (by simp) (.inl (by simp)) h.2⟩

theorem chanInv_enter {s : State} (h : s.chanInv) (src : Source) : (s.enter src).chanInv :=
  ⟨armedTogether_congr (by simp) (by simp) (by simp) (by simp) (.inl (by simp)) h.1,
    armedTogether_congr (by simp) (by simp) (by simp) (by simp) (.inl (by simp)) h.2⟩

theorem chanInv_tick {s : State} (h : s.chanInv) : s.tick.chanInv := by
  obtain ⟨⟨a1, a2, a3, a4⟩, ⟨b1, b2, b3, b4⟩⟩ := h
  refine ⟨⟨a1, a2, ?_, a4⟩, ⟨b1, b2, ?_, b4⟩⟩ <;> simp only [State.tick, matchFlag, Bool.or_eq_true, Bool.and_eq_true]
  · rintro (h | h)
    · exact a3 h
    · exact h.1
  · rintro (h | h)
    · exact b3 h
    · exact h.1

theorem chanInv_startXfer {s : State} (h : s.chanInv) (m : Mode) (n : Nat) (b : Bytes6) : (s.startXfer m n b).chanInv := by
  unfold State.startXfer
  split
  · exact h
  · exact chanInv_congr (by simp) (by simp) h

theorem chanInv_startRender {s : State} (h : s.chanInv) (v : Int) (page : BitVec 4) (col : BitVec 8) :
    (s.startRender v page col).chanInv := by
  unfold State.startRender
  split
  · exact h
  · exact chanInv_congr (by simp) (by simp) h

theorem chanInv_perform {s : State} (h : s.chanInv) (t : Task) : (s.perform t).chanInv := by
  cases t <;> simp only [State.perform]
  case xfer m n b => exact chanInv_startXfer h m n b
  case framer =>
    unfold State.framerStep
    split <;> try exact h
    all_goals refine chanInv_congr ?_ ?_ h
    all_goals
      simp only [pushTasks_ch1, pushTasks_ch2, State.phaseSelect, State.phaseMode, State.phaseByte, State.phaseWaitIdle,
        State.phaseDrain, State.phaseDeselect, State.wireEmit]
    all_goals (try split) <;> rfl
  case setpos page col =>
    unfold State.startSetpos
    split
    · exact h
    · exact chanInv_startXfer h _ _ _
  case glyph idx page col =>
    unfold State.startGlyph
    split
    · exact h
    · exact chanInv_congr (by simp) (by simp) h
  case glyphNext =>
    unfold State.glyphStep
    split <;> first | exact h | exact chanInv_congr (by simp) (by simp) h
  case render v page col => exact chanInv_startRender h _ _ _
  case sendPolarity => exact chanInv_startXfer h _ _ _
  case renderCounter => exact chanInv_startRender h _ _ _
  case renderNext k =>
    unfold State.renderStep
    split <;> first | exact h | exact chanInv_congr (by simp) (by simp) h
  case invert => exact chanInv_congr (by simp [State.startInvert]) (by simp [State.startInvert]) h
  case cntstep =>
    unfold State.startCntstep
    split
    · exact chanInv_congr (by simp) (by simp) h
    · exact h
  case pinHandler ch =>
    have hc := chanInv_chan h ch
    unfold State.pinStep
    split
    · refine chanInv_congr (by simp) (by simp) (s := s.pinDecide ch) ?_
      refine chanInv_setChan h ch ⟨hc.1, hc.2.1, hc.2.2.1, fun hd => ?_⟩
      by_contra hs
      simp only [Bool.not_eq_false] at hs
      simp [State.qualifies, hs] at hd
    · exact chanInv_congr (by simp [State.actLog]) (by simp [State.actLog]) h
    · exact chanInv_return (chanInv_setChan h ch (armedTogether_congr (c := s.chan ch) rfl rfl rfl rfl (.inr (by simp)) hc))
  case actArm ch =>
    refine chanInv_congr (by simp) (by simp) (s := s.suppressAndArm ch) ?_
    unfold State.suppressAndArm State.arm
    simp only [setChan_setChan, chan_setChan_same]
    exact chanInv_setChan h ch ⟨rfl, rfl, by simp, by simp⟩
  case dlexp ch =>
    unfold State.deadlineExpired State.disarm
    simp only [setChan_setChan, chan_setChan_same]
    exact chanInv_return (chanInv_setChan h ch ⟨rfl, rfl, by simp, by simp⟩)
  case tmrother => exact chanInv_return (s := { s with tmrOtherPend := false }) h

theorem chanInv_softStep {s : State} (h : s.chanInv) : s.softStep.chanInv := by
  unfold State.softStep
  split
  · exact h
  · exact chanInv_perform (chanInv_congr (by simp) (by simp) h) _

/-! ## The ranges -/

theorem rangeInv_congr {s t : State} (h0 : t.par = s.par) (h1 : t.cnt = s.cnt) (h2 : t.ch1.dlExp = s.ch1.dlExp)
    (h3 : t.ch2.dlExp = s.ch2.dlExp) (h4 : t.counter = s.counter) (h : s.rangeInv) : t.rangeInv := by
  simpa [State.rangeInv, h0, h1, h2, h3, h4] using h

theorem renderable_holdsValue {p : Params} {v : Int} (h : renderable p v = true) : p.holdsValue v = true := by
  unfold renderable at h
  unfold Params.holdsValue
  split
  · rfl
  · rename_i w hw
    simp only [hw, Bool.and_eq_true, decide_eq_true_eq] at h
    simp only [Bool.and_eq_true, decide_eq_true_eq]
    omega

theorem rangeInv_tick {s : State} (h : s.rangeInv) : s.tick.rangeInv :=
  ⟨h.1, Nat.mod_lt _ (Nat.two_pow_pos _), h.2.2.1, h.2.2.2.1, h.2.2.2.2⟩

theorem rangeInv_setChan {s : State} (h : s.rangeInv) (ch : Channel) {c : Chan} (hc : c.dlExp < 2 ^ s.par.cntWidth) :
    (s.setChan ch c).rangeInv := by
  cases ch
  · exact ⟨h.1, h.2.1, hc, h.2.2.2.1, h.2.2.2.2⟩
  · exact ⟨h.1, h.2.1, h.2.2.1, hc, h.2.2.2.2⟩

theorem rangeInv_chan {s : State} (h : s.rangeInv) (ch : Channel) : (s.chan ch).dlExp < 2 ^ s.par.cntWidth := by
  cases ch
  · exact h.2.2.1
  · exact h.2.2.2.1

theorem rangeInv_return {s : State} (h : s.rangeInv) : s.returnFromHandler.rangeInv :=
  rangeInv_congr (by simp) (by simp) (by simp) (by simp) (by simp) h

theorem rangeInv_startXfer {s : State} (h : s.rangeInv) (m : Mode) (n : Nat) (b : Bytes6) :
    (s.startXfer m n b).rangeInv := by
  unfold State.startXfer
  split
  · exact h
  · exact rangeInv_congr (by simp) (by simp) (by simp) (by simp) (by simp) h

theorem rangeInv_startRender {s : State} (h : s.rangeInv) (v : Int) (page : BitVec 4) (col : BitVec 8) :
    (s.startRender v page col).rangeInv := by
  unfold State.startRender
  split
  · exact h
  · exact rangeInv_congr (by simp) (by simp) (by simp) (by simp) (by simp) h

theorem rangeInv_perform {s : State} (h : s.rangeInv) (t : Task) : (s.perform t).rangeInv := by
  cases t <;> simp only [State.perform]
  case xfer m n b => exact rangeInv_startXfer h m n b
  case framer =>
    unfold State.framerStep
    split <;> try exact h
    all_goals refine rangeInv_congr ?_ ?_ ?_ ?_ ?_ h
    all_goals
      simp only [pushTasks_ch1, pushTasks_ch2, pushTasks_par, pushTasks_cnt, pushTasks_counter, State.phaseSelect,
        State.phaseMode, State.phaseByte, State.phaseWaitIdle, State.phaseDrain, State.phaseDeselect, State.wireEmit]
    all_goals (try split) <;> rfl
  case setpos page col =>
    unfold State.startSetpos
    split
    · exact h
    · exact rangeInv_startXfer h _ _ _
  case glyph idx page col =>
    unfold State.startGlyph
    split
    · exact h
    · exact rangeInv_congr (by simp) (by simp) (by simp) (by simp) (by simp) h
  case glyphNext =>
    unfold State.glyphStep
    split <;> first | exact h | exact rangeInv_congr (by simp) (by simp) (by simp) (by simp) (by simp) h
  case render v page col => exact rangeInv_startRender h _ _ _
  case sendPolarity => exact rangeInv_startXfer h _ _ _
  case renderCounter => exact rangeInv_startRender h _ _ _
  case renderNext k =>
    unfold State.renderStep
    split <;> first | exact h | exact rangeInv_congr (by simp) (by simp) (by simp) (by simp) (by simp) h
  case invert =>
    unfold State.startInvert
    exact rangeInv_congr (by simp) (by simp) (by simp) (by simp) (by simp) h
  case cntstep =>
    unfold State.startCntstep
    split
    · rename_i hr
      refine ⟨?_, ?_, ?_, ?_, ?_⟩
      · simpa using h.1
      · simpa using h.2.1
      · simpa using h.2.2.1
      · simpa using h.2.2.2.1
      · simpa using renderable_holdsValue hr
    · exact h
  case pinHandler ch =>
    have hc := rangeInv_chan h ch
    unfold State.pinStep
    split
    · refine rangeInv_congr (by simp) (by simp) (by simp) (by simp) (by simp) (s := s.pinDecide ch) ?_
      exact rangeInv_setChan h ch hc
    · unfold State.actLog
      exact rangeInv_congr (by simp) (by simp) (by simp) (by simp) (by simp) h
    · exact rangeInv_return (rangeInv_setChan h ch hc)
  case actArm ch =>
    refine rangeInv_congr (by simp) (by simp) (by simp) (by simp) (by simp) (s := s.suppressAndArm ch) ?_
    unfold State.suppressAndArm State.arm
    simp only [setChan_setChan, chan_setChan_same, setChan_par]
    exact rangeInv_setChan h ch (Nat.mod_lt _ (Nat.two_pow_pos _))
  case dlexp ch =>
    unfold State.deadlineExpired State.disarm
    simp only [setChan_setChan, chan_setChan_same]
    exact rangeInv_return (rangeInv_setChan h ch (rangeInv_chan h ch))
  case tmrother => exact rangeInv_return (s := { s with tmrOtherPend := false }) h

theorem rangeInv_softStep {s : State} (h : s.rangeInv) : s.softStep.rangeInv := by
  unfold State.softStep
  split
  · exact h
  · exact rangeInv_perform (rangeInv_congr (by simp) (by simp) (by simp) (by simp) (by simp) h) _

/-! ## The parameters -/

/-- Every record of parameters brought into the ranges of R6 is in them. -/
theorem legal_wf (r : Params) : r.legal.wf = true := by
  have clamp : ∀ (w : Option Nat) (p : Params) (v : Int), p.valWidth = w.map (· + 1) →
      p.holdsValue (Params.clampValue (w.map (· + 1)) v) = true := by
    intro w p v hp
    unfold Params.holdsValue Params.clampValue
    cases w with
    | none => simp [hp]
    | some k =>
      have hk : (0 : Int) < 2 ^ k := by positivity
      have e : (2 : Int) ^ (k + 1) = 2 * 2 ^ k := by ring
      have hm : 0 < 2 ^ (k + 1) := Nat.two_pow_pos _
      have hd : ((2 ^ (k + 1) : Nat) : Int) / 2 = 2 ^ k := by push_cast; omega
      have h1 := Int.le_bmod (x := v) hm
      have h2 := Int.bmod_lt (x := v) hm
      have hd' : (((2 ^ (k + 1) : Nat) : Int) + 1) / 2 = 2 ^ k := by push_cast; omega
      rw [hd] at h1
      rw [hd'] at h2
      simp only [hp, Option.map_some, Nat.add_sub_cancel, Bool.and_eq_true, decide_eq_true_eq]
      exact ⟨h1, h2⟩
  have hpos : 0 < 2 ^ (r.cntWidth + 1) - 1 := by
    have : 2 ≤ 2 ^ (r.cntWidth + 1) := by
      have := Nat.pow_le_pow_right (n := 2) (by omega) (show 1 ≤ r.cntWidth + 1 by omega)
      simpa using this
    omega
  have hd := Nat.mod_lt r.fixedDelay hpos
  have h7 := Nat.mod_lt r.renderPage.toNat (show 0 < 7 by omega)
  have h92 := Nat.mod_lt r.renderCol.toNat (show 0 < 92 by omega)
  unfold Params.wf
  have c1 := clamp r.valWidth r.legal r.counterInit rfl
  have c2 := clamp r.valWidth r.legal r.counterStep rfl
  simp only [Bool.and_eq_true, decide_eq_true_eq]
  refine ⟨⟨⟨⟨⟨⟨⟨⟨?_, ?_⟩, ?_⟩, ?_⟩, ?_⟩, c1⟩, c2⟩, ?_⟩, ?_⟩
  · exact Nat.succ_pos _
  · exact Nat.succ_pos _
  · simp only [Params.legal]; omega
  · simp [Params.legal]
  · simp only [Params.legal]; cases r.valWidth <;> simp
  · simp only [Params.legal, BitVec.toNat_ofNat, glyphPageMax]
    rw [Nat.mod_eq_of_lt (a := r.renderPage.toNat % 7) (by omega)]
    omega
  · simp only [Params.legal, BitVec.toNat_ofNat, renderColMax]
    rw [Nat.mod_eq_of_lt (a := r.renderCol.toNat % 92) (by omega)]
    omega

/-! ## Many TICKs -/

/-- What TICKs leave of a channel. -/
theorem ticks_facts (s : State) (n : Nat) (ch : Channel) : (s.ticks n).par = s.par ∧ ((s.ticks n).chan ch).dlExp = (s.chan ch).dlExp ∧ ((s.ticks n).chan ch).dlValid = (s.chan ch).dlValid ∧ ((s.ticks n).chan ch).cmpIe = (s.chan ch).cmpIe := by
  induction n generalizing s with
  | zero => exact ⟨rfl, rfl, rfl, rfl⟩
  | succ n ih => have := ih s.tick; cases ch <;> exact this

/-- When the compare flag of a channel is set after n TICKs. -/
theorem ticks_flag (s : State) (n : Nat) (ch : Channel) (hc : s.cnt < 2 ^ s.par.cntWidth) :
    (((s.ticks n).chan ch).cmpIfg = true ↔ (s.chan ch).cmpIfg = true ∨ ((s.chan ch).dlValid = true ∧ ∃ k, 1 ≤ k ∧ k ≤ n ∧ (s.cnt + k) % 2 ^ s.par.cntWidth = (s.chan ch).dlExp)) := by
  induction n generalizing s with
  | zero => simp [State.ticks]
  | succ n ih =>
    have hp : s.tick.par = s.par := rfl
    have hcnt : s.tick.cnt = (s.cnt + 1) % 2 ^ s.par.cntWidth := rfl
    have := ih s.tick (by rw [hp, hcnt]; exact Nat.mod_lt _ (Nat.two_pow_pos _))
    rw [show s.ticks (n+1) = s.tick.ticks n from rfl, this]
    have e1 : (s.tick.chan ch).dlValid = (s.chan ch).dlValid := by cases ch <;> rfl
    have e2 : (s.tick.chan ch).dlExp = (s.chan ch).dlExp := by cases ch <;> rfl
    have e3 : (s.tick.chan ch).cmpIfg = matchFlag (nextCount s) (s.chan ch) := by cases ch <;> rfl
    rw [e1, e2, e3, hp, hcnt]
    simp only [matchFlag, nextCount, Bool.or_eq_true, Bool.and_eq_true]
    constructor
    · rintro ((h | ⟨h1, h2⟩) | ⟨h1, k, hk1, hk2, hk3⟩)
      · exact .inl h
      · exact .inr ⟨h1, 1, by omega, by omega, of_decide_eq_true h2⟩
      · refine .inr ⟨h1, k + 1, by omega, by omega, ?_⟩
        rw [← hk3, Nat.mod_add_mod]; congr 1; omega
    · rintro (h | ⟨h1, k, hk1, hk2, hk3⟩)
      · exact .inl (.inl h)
      · by_cases hk : k = 1
        · subst hk; exact .inl (.inr ⟨h1, decide_eq_true hk3⟩)
        · refine .inr ⟨h1, k - 1, by omega, by omega, ?_⟩
          rw [← hk3, Nat.mod_add_mod]; congr 1; omega

end Sys2Proof.Machine
end

