-- ==== Sys2Proof/Laws/Codec.lean ====
section
/-! SUPPORT. The fields of a record survive encoding (spec/30_encoding.md R97, R99): one lemma per field, and the value of a RENDER
of any size. -/

namespace Sys2Proof

theorem natToBytesAux_value (fuel n : Nat) (h : n ≤ fuel) : bytesToNat (natToBytesAux fuel n) = n := by
  induction fuel generalizing n with
  | zero => simp [natToBytesAux, bytesToNat]; omega
  | succ k ih =>
    unfold natToBytesAux
    split
    · simp [bytesToNat, *]
    · have hk : n / 256 ≤ k := by omega
      simp only [bytesToNat, ih _ hk, BitVec.toNat_ofNat]
      omega

theorem natToBytes_value (n : Nat) : bytesToNat (natToBytes n) = n := natToBytesAux_value n n (Nat.le_refl n)

theorem bytesToNat_zero (bs : List Byte) : bytesToNat (bs ++ [0x00]) = bytesToNat bs := by
  induction bs with
  | nil => simp [bytesToNat]
  | cons b bs ih => rw [List.cons_append, bytesToNat, ih, bytesToNat]

theorem signOfBytes_last (bs : List Byte) (b : Byte) : signOfBytes (bs ++ [b]) = b.getLsbD 7 := by
  simp [signOfBytes]

/-- VAL survives encoding, whatever its size (R99). -/
theorem intToBytes_value (v : Int) : bytesToInt (intToBytes v) = v := by
  unfold bytesToInt intToBytes
  split <;> rename_i h
  · rw [signOfBytes_last, if_neg (by decide), bytesToNat_zero, natToBytes_value]
    omega
  · rw [signOfBytes_last, if_pos (by decide), List.map_append, List.map_map,
      show (fun x : Byte => ~~~x) ∘ (fun x : Byte => ~~~x) = id by funext x; simp, List.map_id]
    rw [show [(0xFF : Byte)].map (fun x => ~~~x) = [0x00] by decide, bytesToNat_zero, natToBytes_value]
    omega

theorem flagsByte_chsel (ch : Channel) (l : Bool) (m : Mode) (len : BitVec 3) :
    (if (flagsByte ch l m len)[0] then Channel.two else .one) = ch := by
  cases ch <;> cases l <;> cases m <;> revert len <;> decide

theorem flagsByte_level (ch : Channel) (l : Bool) (m : Mode) (len : BitVec 3) : (flagsByte ch l m len)[1] = l := by
  cases ch <;> cases l <;> cases m <;> revert len <;> decide

theorem flagsByte_mode (ch : Channel) (l : Bool) (m : Mode) (len : BitVec 3) :
    (if (flagsByte ch l m len)[2] then Mode.data else .command) = m := by
  cases ch <;> cases l <;> cases m <;> revert len <;> decide

theorem flagsByte_len (ch : Channel) (l : Bool) (m : Mode) (len : BitVec 3) :
    (flagsByte ch l m len).extractLsb' 3 3 = len := by
  cases ch <;> cases l <;> cases m <;> revert len <;> decide

theorem nibble_low (hi lo : BitVec 4) : (hi ++ lo : BitVec 8).extractLsb' 0 4 = lo := by revert hi lo; decide

theorem nibble_high (hi lo : BitVec 4) : (hi ++ lo : BitVec 8).extractLsb' 4 4 = hi := by revert hi lo; decide

/-- The four command formats are told apart by the decoder (R102). -/
theorem decode_wireColhi (c : BitVec 4) : decodeCommandByte (wireColhi c) = some (.wColhi c) := by revert c; decide

theorem decode_wireCollo (c : BitVec 4) : decodeCommandByte (wireCollo c) = some (.wCollo c) := by revert c; decide

theorem decode_wirePage (p : BitVec 4) : decodeCommandByte (wirePage p) = some (.wPage p) := by revert p; decide

theorem decode_wireInv (p : BitVec 1) : decodeCommandByte (wireInv p) = some (.wInv p) := by revert p; decide

/-- A record survives its bytes. -/
theorem ofBytes_toBytes (r : Record) : Record.ofBytes r.toBytes = some r := rfl

end Sys2Proof
end

