-- ==== Sys2Proof/Laws/Draw.lean ====
section
/-! SUPPORT. The runs of the drawing operations in the core layer, each over the run of a transfer: SETPOS, GLYPH, RENDER, INVERT and
CNTSTEP (spec/43_position_mapper.md, spec/44_glyph_blit.md, spec/45_bound_actions.md). Callers cite these and never unfold a
sequencer. -/

namespace Sys2Proof.Machine

/-! ## A transfer and the running context -/

theorem afterXfer_setRunning (m : Mode) (n : Nat) (b : Bytes6) (s : State) (c : Ctx) :
    afterXfer m n b (s.setRunning c) = (afterXfer m n b s).setRunning c :=
  setRunning_update_comm s c (afterXfer m n b) fun _ _ _ => rfl

@[simp] theorem afterXfer_running (m : Mode) (n : Nat) (b : Bytes6) (s : State) : (afterXfer m n b s).running = s.running := rfl

@[simp] theorem afterXfer_hs (m : Mode) (n : Nat) (b : Bytes6) (s : State) : (afterXfer m n b s).hs = s.hs := rfl

@[simp] theorem afterXfer_par (m : Mode) (n : Nat) (b : Bytes6) (s : State) : (afterXfer m n b s).par = s.par := rfl

@[simp] theorem afterXfer_wire (m : Mode) (n : Nat) (b : Bytes6) (s : State) :
    (afterXfer m n b s).wire = s.wire ++ frame m (bytesUpTo n b) := rfl

@[simp] theorem afterXfer_busReady (m : Mode) (n : Nat) (b : Bytes6) (s : State) :
    (afterXfer m n b s).busReady = s.busReady := rfl

theorem afterXfer_pushTasks (m : Mode) (n : Nat) (b : Bytes6) (s : State) (ts : List Task) :
    afterXfer m n b (s.pushTasks ts) = (afterXfer m n b s).pushTasks ts := by
  simp [State.pushTasks, State.setWork, afterXfer_setRunning]

@[simp] theorem busReady_pushTasks (s : State) (ts : List Task) : (s.pushTasks ts).busReady = s.busReady := by
  simp [State.busReady]

@[simp] theorem busReady_setBph (s : State) (b : BPhase) : (s.setBph b).busReady = s.busReady := by
  simp [State.busReady]

@[simp] theorem busReady_setLocals (s : State) (l : Locals) : (s.setLocals l).busReady = s.busReady := by
  simp [State.busReady]

theorem ready_idle {s : State} (hr : s.busReady = true) : (s.par.serLive && s.serEnabled) = false := by
  simp only [State.busReady, Bool.and_eq_true, decide_eq_true_eq, Bool.not_eq_true'] at hr
  simp [State.serEnabled, State.serAcceptEnabled, hr.1.2, hr.2]

/-- A transfer with more work behind it. -/
theorem settle_xfer_cons (m : Mode) (n : Nat) (b : Bytes6) (s : State) (ts : List Task) {depth left : Nat} (fuel : Nat)
    (hd : s.within depth left) (hr : s.busReady = true) (h1 : 1 ≤ n)
    (h6 : n ≤ xferMaxLen) :
    State.settle depth left (xferFuel n + fuel) (s.pushTasks (.xfer m n b :: ts)) =
      State.settle depth left fuel ((afterXfer m n b s).pushTasks ts) := by
  have := settle_xfer m n b (s.pushTasks ts) (depth := depth) (left := left) fuel (by simp at hd ⊢; omega) (by simpa using hr) h1 h6
  rwa [pushTasks_pushTasks, List.singleton_append, afterXfer_pushTasks] at this

/-! ## SETPOS -/

theorem setposCheck_legal {page : BitVec 4} {col : BitVec 8} (hp : page.toNat ≤ pageMax) (hc : col.toNat ≤ colMax) :
    setposCheck page col = none := by simp [setposCheck, Nat.not_lt.2 hp, Nat.not_lt.2 hc]

/-- SETPOS runs as the one transfer of its three bytes (R190, R193). -/
theorem settle_setpos_cons (page : BitVec 4) (col : BitVec 8) (s : State) (ts : List Task) {depth left : Nat} (fuel : Nat)
    (hd : s.within depth left) (hr : s.busReady = true) (hp : page.toNat ≤ pageMax)
    (hc : col.toNat ≤ colMax) :
    State.settle depth left (xferFuel 3 + fuel) (s.pushTasks (.setpos page col :: ts)) =
      State.settle depth left fuel ((afterXfer .command 3 (posBytes page col) s).pushTasks ts) := by
  rw [← settle_xfer_cons .command 3 (posBytes page col) s ts fuel hd hr (by omega) (by decide)]
  rw [show xferFuel 3 + fuel = (15 + fuel) + 1 by simp [xferFuel]; omega]
  rw [settle_perform_cons s _ ts _ hd (ready_idle hr), settle_perform_cons s _ ts _ hd (ready_idle hr)]
  simp [State.perform, State.startSetpos, setposCheck_legal hp hc]

/-! ## GLYPH -/

/-- The fuel of one GLYPH: four transfers and the steps between them (R279). -/
def glyphFuel : Nat := 2 * xferFuel 3 + 2 * xferFuel 6 + 5

theorem page_succ {page : BitVec 4} (hp : page.toNat ≤ glyphPageMax) : (page + 1).toNat = page.toNat + 1 := by
  have : page.toNat ≤ 6 := hp
  simp [BitVec.toNat_add]
  omega

theorem setRunning_serEnabled (s : State) (c : Ctx) : (s.setRunning c).serEnabled = s.serEnabled := by
  simp [State.serEnabled, State.serAcceptEnabled]

/-- GLYPH runs as its four transfers (R200, R201). -/
theorem settle_glyph_cons (idx page : BitVec 4) (col : BitVec 8) (s : State) (ts : List Task) {depth left : Nat} (fuel : Nat)
    (hd : s.within depth left) (hr : s.busReady = true) (hi : idx.toNat < nGlyph)
    (hp : page.toNat ≤ glyphPageMax) (hc : col.toNat ≤ colMax) :
    State.settle depth left (glyphFuel + fuel) (s.pushTasks (.glyph idx page col :: ts)) =
      State.settle depth left fuel ((afterGlyph idx page col s).pushTasks ts) := by
  have hp1 : (page + 1).toNat ≤ pageMax := by rw [page_succ hp]; exact Nat.succ_le_succ hp
  have hp0 : page.toNat ≤ pageMax := Nat.le_succ_of_le hp
  have hcheck : glyphCheck idx page col = none := by
    simp [glyphCheck, Nat.not_le.2 hi, Nat.not_lt.2 hp, Nat.not_lt.2 hc]
  rw [show glyphFuel + fuel =
    (xferFuel 3 + ((xferFuel 6 + ((xferFuel 3 + ((xferFuel 6 + (fuel + 1)) + 1)) + 1)) + 1)) + 1 by
      simp [glyphFuel]; omega]
  refine (settle_perform_cons _ _ _ _ hd (ready_idle hr)).trans ?_
  simp only [State.perform, State.startGlyph, hcheck, running_pushTasks]
  have comm : ∀ (u : State) (us : List Task) (l : Locals) (b : BPhase),
      ((u.pushTasks us).setLocals l).setBph b = ((u.setLocals l).setBph b).pushTasks us := by
    intro u us l b; simp [State.pushTasks, State.setWork, State.setLocals, State.setBph]
  have commB : ∀ (u : State) (us : List Task) (b : BPhase), (u.pushTasks us).setBph b = (u.setBph b).pushTasks us := by
    intro u us b; simp [State.pushTasks, State.setWork, State.setBph]
  have loc : ∀ (u : State) (us : List Task), (u.pushTasks us).running.loc = u.running.loc := by intro u us; simp
  rw [comm, pushTasks_pushTasks]
  refine (settle_setpos_cons _ _ _ _ _ (by simpa using hd) (by simpa using hr) hp1 hc).trans ?_
  refine (settle_perform_cons _ _ _ _ (by simpa using hd) (ready_idle (by simpa using hr))).trans ?_
  simp only [State.perform, State.glyphStep, running_pushTasks, afterXfer_running, running_setBph, running_setLocals, pushTasks_par,
    afterXfer_par, setBph_par, setLocals_par]
  rw [commB, pushTasks_pushTasks]
  refine (settle_xfer_cons _ _ _ _ _ _ (by simpa using hd) (by simpa using hr) (by omega) (by decide)).trans ?_
  refine (settle_perform_cons _ _ _ _ (by simpa using hd) (ready_idle (by simpa using hr))).trans ?_
  simp only [State.perform, State.glyphStep, running_pushTasks, afterXfer_running, running_setBph, running_setLocals]
  rw [commB, pushTasks_pushTasks]
  refine (settle_setpos_cons _ _ _ _ _ (by simpa using hd) (by simpa using hr) hp0 hc).trans ?_
  refine (settle_perform_cons _ _ _ _ (by simpa using hd) (ready_idle (by simpa using hr))).trans ?_
  simp only [State.perform, State.glyphStep, running_pushTasks, afterXfer_running, running_setBph, running_setLocals, pushTasks_par,
    afterXfer_par, setBph_par, setLocals_par]
  rw [commB, pushTasks_pushTasks]
  refine (settle_xfer_cons _ _ _ _ _ _ (by simpa using hd) (by simpa using hr) (by omega) (by decide)).trans ?_
  refine (settle_perform_cons _ _ _ _ (by simpa using hd) (ready_idle (by simpa using hr))).trans ?_
  simp only [State.perform, State.glyphStep, running_pushTasks, afterXfer_running, running_setBph]
  rw [commB]
  simp only [afterGlyph, State.setBph, State.setLocals, afterXfer_setRunning, setRunning_setRunning, running_setRunning]
  rfl

/-! ## RENDER -/

@[simp] theorem afterGlyph_hs_length (idx page : BitVec 4) (col : BitVec 8) (s : State) :
    (afterGlyph idx page col s).hs.length = s.hs.length := by simp [afterGlyph]

@[simp] theorem afterGlyph_par (idx page : BitVec 4) (col : BitVec 8) (s : State) :
    (afterGlyph idx page col s).par = s.par := by simp [afterGlyph]

@[simp] theorem afterGlyph_work (idx page : BitVec 4) (col : BitVec 8) (s : State) :
    (afterGlyph idx page col s).running.work = s.running.work := by simp [afterGlyph]

@[simp] theorem afterGlyph_busReady (idx page : BitVec 4) (col : BitVec 8) (s : State) :
    (afterGlyph idx page col s).busReady = s.busReady := by simp [afterGlyph]

/-- RENDER's own locals are untouched by its glyphs (R41). -/
theorem afterGlyph_locals (idx page : BitVec 4) (col : BitVec 8) (s : State) :
    (afterGlyph idx page col s).running.loc = { s.running.loc with bidx := idx, bpage := page, bcol := col } := by
  simp [afterGlyph]

theorem afterGlyph_wire (idx page : BitVec 4) (col : BitVec 8) (s : State) :
    (afterGlyph idx page col s).wire = s.wire ++ glyphFrames s.par idx page col := by
  simp only [afterGlyph, setBph_wire, afterXfer_wire, setLocals_wire, glyphFrames, posFrame, halfFrame,
    List.append_assoc]
  simp [bytesUpTo, posBytes, fontHalf, getByte, List.range_succ, Nat.add_comm]

theorem digitSlots_legal (slots m : Nat) (first : Bool) :
    ∀ g ∈ digitSlots slots m first, g.toNat < nGlyph := by
  induction slots generalizing m first with
  | zero => simp [digitSlots]
  | succ k ih =>
    intro g hg
    unfold digitSlots at hg
    split at hg
    · rcases List.mem_cons.1 hg with rfl | h
      · have : m % 10 < 10 := Nat.mod_lt _ (by omega)
        simp [nGlyph]
        omega
      · exact ih _ _ g h
    · rcases List.mem_cons.1 hg with rfl | h
      · decide
      · exact ih _ _ g h

theorem digitSlots_length (slots m : Nat) (first : Bool) : (digitSlots slots m first).length = slots := by
  induction slots generalizing m first with
  | zero => rfl
  | succ k ih => unfold digitSlots; split <;> simp [ih]

/-- Every glyph RENDER emits has an index of the font (R213: "every glyph index emitted is in 0 .. 12"). -/
theorem renderIndices_legal (v : Int) (k : Nat) : ((renderIndices v).getD k glyphBlank).toNat < nGlyph := by
  have hm : ∀ g ∈ renderIndices v, g.toNat < nGlyph := by
    intro g hg
    rcases List.mem_cons.1 hg with rfl | h
    · unfold signGlyph; split <;> decide
    · exact digitSlots_legal _ _ _ g (by simpa [digits] using h)
  by_cases hk : k < (renderIndices v).length
  · rw [List.getD_eq_getElem _ _ hk]; exact hm _ (List.getElem_mem hk)
  · rw [List.getD_eq_default _ _ (by omega)]; decide

theorem renderColumn_legal {col : BitVec 8} (hc : col.toNat ≤ renderColMax) {k : Nat} (hk : k < 6) :
    (renderColumn col k).toNat ≤ colMax := by
  have : col.toNat ≤ 91 := hc
  simp [renderColumn, colMax, digitPitch]
  omega

/-- The locals a RENDER of `v` works from. -/
def State.renders (v : Int) (page : BitVec 4) (col : BitVec 8) (s : State) : Prop :=
  s.running.loc.rsign = signGlyph v ∧ s.running.loc.rbuf = digits v.natAbs ∧ s.running.loc.rpage = page ∧
    s.running.loc.rcol = col

theorem renderGlyph_eq {v : Int} {page : BitVec 4} {col : BitVec 8} {s : State} (h : s.renders v page col) (k : Nat) :
    renderGlyph s.running.loc k = (renderIndices v).getD k glyphBlank := by
  cases k <;> simp [renderGlyph, renderIndices, h.1, h.2.1]

/-- One glyph of a RENDER, and the ones after it. -/
theorem settle_renderNext (v : Int) (page : BitVec 4) (col : BitVec 8) (k : Nat) (s : State) (ts : List Task)
    {depth left : Nat} (fuel : Nat) (hd : s.within depth left) (hr : s.busReady = true)
    (hp : page.toNat ≤ glyphPageMax) (hc : col.toNat ≤ renderColMax) (hk : k < 6) (hs : s.renders v page col) :
    State.settle depth left (glyphFuel + 1 + fuel) (s.pushTasks (.renderNext k :: ts)) =
      State.settle depth left fuel
        ((afterGlyph ((renderIndices v).getD k glyphBlank) page (renderColumn col k) s).pushTasks (.renderNext (k + 1) :: ts)) := by
  rw [show glyphFuel + 1 + fuel = glyphFuel + fuel + 1 by omega]
  refine (settle_perform_cons _ _ _ _ hd (ready_idle hr)).trans ?_
  have hk' : k < nDigits + 1 := hk
  simp only [State.perform, State.renderStep, hk', if_true, running_pushTasks, renderGlyph_eq hs, hs.2.2.1, hs.2.2.2]
  rw [pushTasks_pushTasks]
  exact settle_glyph_cons _ _ _ _ _ _ hd hr (renderIndices_legal v k) hp (renderColumn_legal hc hk)

theorem afterGlyph_renders {v : Int} {page : BitVec 4} {col : BitVec 8} {s : State} (h : s.renders v page col)
    (idx p : BitVec 4) (c : BitVec 8) : (afterGlyph idx p c s).renders v page col := by
  simpa [State.renders, afterGlyph_locals] using h

/-- The fuel of one RENDER (R279: 24 transfers). -/
def renderFuel : Nat := 6 * (glyphFuel + 1) + 2

/-- RENDER runs as its six glyphs (R213). -/
theorem settle_render_cons (v : Int) (page : BitVec 4) (col : BitVec 8) (s : State) (ts : List Task) {depth left : Nat}
    (fuel : Nat) (hd : s.within depth left) (hr : s.busReady = true)
    (hp : page.toNat ≤ glyphPageMax) (hc : col.toNat ≤ renderColMax) (hv : renderable s.par v = true) :
    State.settle depth left (renderFuel + fuel) (s.pushTasks (.render v page col :: ts)) =
      State.settle depth left fuel ((afterRender v page col s).pushTasks ts) := by
  have hcheck : renderCheck s.par v page col = none := by
    simp [renderCheck, Nat.not_lt.2 hp, Nat.not_lt.2 hc, hv]
  rw [show renderFuel + fuel = (glyphFuel + 1 + (glyphFuel + 1 + (glyphFuel + 1 + (glyphFuel + 1 + (glyphFuel + 1 +
    (glyphFuel + 1 + (fuel + 1))))))) + 1 by simp [renderFuel]; omega]
  refine (settle_perform_cons _ _ _ _ hd (ready_idle hr)).trans ?_
  simp only [State.perform, State.startRender, pushTasks_par, hcheck, running_pushTasks]
  have comm : ∀ (u : State) (us : List Task) (l : Locals), (u.pushTasks us).setLocals l = (u.setLocals l).pushTasks us := by
    intro u us l; simp [State.pushTasks, State.setWork, State.setLocals]
  rw [comm, pushTasks_pushTasks, List.singleton_append]
  have h0 : (s.setLocals { s.running.loc with rsign := signGlyph v, rbuf := digits v.natAbs, rpage := page, rcol := col }).renders
      v page col := by simp [State.renders]
  have h1 := afterGlyph_renders h0 ((renderIndices v).getD 0 glyphBlank) page (renderColumn col 0)
  have h2 := afterGlyph_renders h1 ((renderIndices v).getD 1 glyphBlank) page (renderColumn col 1)
  have h3 := afterGlyph_renders h2 ((renderIndices v).getD 2 glyphBlank) page (renderColumn col 2)
  have h4 := afterGlyph_renders h3 ((renderIndices v).getD 3 glyphBlank) page (renderColumn col 3)
  have h5 := afterGlyph_renders h4 ((renderIndices v).getD 4 glyphBlank) page (renderColumn col 4)
  refine (settle_renderNext v page col 0 _ _ _ (by simpa using hd) (by simpa using hr) hp hc (by omega) h0).trans ?_
  refine (settle_renderNext v page col 1 _ _ _ (by simpa using hd) (by simpa using hr) hp hc (by omega) h1).trans ?_
  refine (settle_renderNext v page col 2 _ _ _ (by simpa using hd) (by simpa using hr) hp hc (by omega) h2).trans ?_
  refine (settle_renderNext v page col 3 _ _ _ (by simpa using hd) (by simpa using hr) hp hc (by omega) h3).trans ?_
  refine (settle_renderNext v page col 4 _ _ _ (by simpa using hd) (by simpa using hr) hp hc (by omega) h4).trans ?_
  refine (settle_renderNext v page col 5 _ _ _ (by simpa using hd) (by simpa using hr) hp hc (by omega) h5).trans ?_
  refine (settle_perform_cons _ _ _ _ (by simpa using hd) (ready_idle (by simpa using hr))).trans ?_
  simp [State.perform, State.renderStep, nDigits, afterRender, List.range_succ]

/-! ## What an operation of several transfers leaves -/

/-- `t` is `s` but for the registers of the bus, the frames `w` on the wire and the running context, which is `c`. -/
def State.drew (t s : State) (w : List WireEvent) (c : Ctx) : Prop :=
  t = State.setRunning c { s.withBusOf t with wire := s.wire ++ w }

theorem drew_trans {s t u : State} {v w : List WireEvent} {c d : Ctx} (h1 : t.drew s v c) (h2 : u.drew t w d) :
    u.drew s (v ++ w) d := by
  unfold State.drew at *
  refine h2.trans ?_
  clear h2
  generalize hb : u = b
  clear hb u
  rw [h1]
  unfold State.setRunning
  cases hs : s.hs <;> simp [State.withBusOf, hs]

theorem afterGlyph_drew (idx page : BitVec 4) (col : BitVec 8) (s : State) :
    (afterGlyph idx page col s).drew s (glyphFrames s.par idx page col)
      { s.running with bph := .idle, loc := { s.running.loc with bidx := idx, bpage := page, bcol := col } } := by
  have hw := afterGlyph_wire idx page col s
  unfold State.drew
  rw [← hw]
  unfold State.setRunning
  cases hs : s.hs <;>
    simp [afterGlyph, afterXfer, State.setBph, State.setLocals, State.setRunning, State.running, State.withBusOf, hs]

/-- A RENDER's frames and the context it leaves (R213). -/
theorem afterRender_drew (v : Int) (page : BitVec 4) (col : BitVec 8) (s : State) :
    ∃ c, c.work = s.running.work ∧ c.bph = .idle ∧
      (afterRender v page col s).drew s (renderFrames s.par v page col) c := by
  have key : ∀ (ks : List Nat) (u : State) (w : List WireEvent) (c : Ctx), u.drew s w c → u.par = s.par →
      c.work = s.running.work → (ks ≠ [] ∨ c.bph = .idle) →
      ∃ d, d.work = s.running.work ∧ d.bph = .idle ∧
        (ks.foldl (fun t k => afterGlyph ((renderIndices v).getD k glyphBlank) page (renderColumn col k) t) u).drew s
          (w ++ ks.flatMap (fun k => glyphFrames s.par ((renderIndices v).getD k glyphBlank) page (renderColumn col k))) d := by
    intro ks
    induction ks with
    | nil => intro u w c h _ hc hb; exact ⟨c, hc, hb.resolve_left (by simp), by simpa using h⟩
    | cons k ks ih =>
      intro u w c h hp hc _
      have hg := afterGlyph_drew ((renderIndices v).getD k glyphBlank) page (renderColumn col k) u
      rw [hp] at hg
      have hrun : u.running.work = c.work := by
        have h' : u = State.setRunning c { s.withBusOf u with wire := s.wire ++ w } := h
        rw [h']
        exact congrArg Ctx.work (running_setRunning _ c)
      have := ih _ _ _ (drew_trans h hg) (by simpa using hp) (hrun.trans hc) (.inr rfl)
      simpa [List.flatMap_cons, List.append_assoc] using this
  obtain ⟨d, h1, h2, h3⟩ := key (List.range 6) _ [] { s.running with
      loc := { s.running.loc with rsign := signGlyph v, rbuf := digits v.natAbs, rpage := page, rcol := col } }
    (show State.drew (s.setLocals { s.running.loc with
        rsign := signGlyph v, rbuf := digits v.natAbs, rpage := page, rcol := col }) s [] _ by
      unfold State.drew State.setLocals State.setRunning
      cases hs : s.hs <;> simp [State.withBusOf, hs])
    (by simp) rfl (.inl (by simp))
  rw [List.nil_append] at h3
  exact ⟨d, h1, h2, h3⟩

end Sys2Proof.Machine
end

