-- ==== Sys2Proof/Laws/Complete.lean ====
section
/-! SUPPORT. What each operation and each handler comes to in the core layer: one lemma per operation and per path of a handler,
which the provers cite instead of running the agents' steps. -/

namespace Sys2Proof.Machine

/-! ## Operations -/

theorem within_self (s : State) : s.within s.hs.length s.running.work.length := .inr ⟨rfl, Nat.le_refl _⟩

theorem settled_self {s t : State} (h1 : t.hs.length = s.hs.length) (h2 : t.running.work.length = s.running.work.length) :
    t.settled s.hs.length s.running.work.length = true := by simp [State.settled, h1, h2]

/-- A transfer (R160, R172). -/
theorem callOp_xfer (m : Mode) (n : Nat) (b : Bytes6) (s : State) (hr : s.busReady = true) (h1 : 1 ≤ n) (h6 : n ≤ xferMaxLen) :
    s.callOp (.xfer m n b) = afterXfer m n b s := by
  have h6' : n ≤ 6 := h6
  unfold State.callOp State.complete
  rw [show coreFuel = xferFuel n + (1017 - 3 * n) by simp [coreFuel, xferFuel]; omega]
  rw [settle_xfer m n b s _ (within_self s) hr h1 h6]
  exact settle_of_settled _ _ _ _ (settled_self (by simp [afterXfer]) (by simp))

/-- An operation whose start step refuses it (R9, R70): nothing else happens. -/
theorem callOp_refused (t : Task) (r : RefuseReason) (s : State) (hs : (s.par.serLive && s.serEnabled) = false)
    (hp : s.perform t = s.refuse r) : s.callOp t = s.refuse r := by
  unfold State.callOp State.complete
  rw [show coreFuel = 1023 + 1 from rfl, settle_perform s t _ (within_self s) hs, hp]
  exact settle_of_settled _ _ _ _ (settled_self rfl rfl)

/-- SETPOS (R190). -/
theorem callOp_setpos (page : BitVec 4) (col : BitVec 8) (s : State) (hr : s.busReady = true) (hp : page.toNat ≤ pageMax)
    (hc : col.toNat ≤ colMax) : s.callOp (.setpos page col) = afterXfer .command 3 (posBytes page col) s := by
  unfold State.callOp State.complete
  rw [show coreFuel = xferFuel 3 + 1008 from rfl, settle_setpos_cons page col s [] _ (within_self s) hr hp hc, pushTasks_nil]
  exact settle_of_settled _ _ _ _ (settled_self (by simp [afterXfer]) (by simp))

/-- GLYPH (R200). -/
theorem callOp_glyph (idx page : BitVec 4) (col : BitVec 8) (s : State) (hr : s.busReady = true) (hi : idx.toNat < nGlyph)
    (hp : page.toNat ≤ glyphPageMax) (hc : col.toNat ≤ colMax) : s.callOp (.glyph idx page col) = afterGlyph idx page col s := by
  unfold State.callOp State.complete
  rw [show coreFuel = glyphFuel + 937 from rfl, settle_glyph_cons idx page col s [] _ (within_self s) hr hi hp hc, pushTasks_nil]
  exact settle_of_settled _ _ _ _ (settled_self (by simp) (by simp))

@[simp] theorem afterRender_hs_length (v : Int) (page : BitVec 4) (col : BitVec 8) (s : State) :
    (afterRender v page col s).hs.length = s.hs.length := by simp [afterRender, List.range_succ]

@[simp] theorem afterRender_work (v : Int) (page : BitVec 4) (col : BitVec 8) (s : State) :
    (afterRender v page col s).running.work = s.running.work := by simp [afterRender, List.range_succ]

/-- RENDER (R213). -/
theorem callOp_render (v : Int) (page : BitVec 4) (col : BitVec 8) (s : State) (hr : s.busReady = true)
    (hp : page.toNat ≤ glyphPageMax) (hc : col.toNat ≤ renderColMax) (hv : renderable s.par v = true) :
    s.callOp (.render v page col) = afterRender v page col s := by
  unfold State.callOp State.complete
  rw [show coreFuel = renderFuel + 494 from rfl, settle_render_cons v page col s [] _ (within_self s) hr hp hc hv, pushTasks_nil]
  exact settle_of_settled _ _ _ _ (settled_self (by simp) (by simp))

/-- INVERT's transfer sends the bit POL holds when it starts (R46, R210). -/
theorem settle_sendPolarity_cons (s : State) (ts : List Task) {depth left : Nat} (fuel : Nat) (hd : s.within depth left)
    (hr : s.busReady = true) :
    State.settle depth left (xferFuel 1 + fuel) (s.pushTasks (.sendPolarity :: ts)) =
      State.settle depth left fuel ((afterXfer .command 1 (oneByte (wireInv s.pol)) s).pushTasks ts) := by
  rw [← settle_xfer_cons .command 1 (oneByte (wireInv s.pol)) s ts fuel hd hr (by omega) (by decide)]
  rw [show xferFuel 1 + fuel = (9 + fuel) + 1 by simp [xferFuel]; omega]
  rw [settle_perform_cons s _ ts _ hd (ready_idle hr), settle_perform_cons s _ ts _ hd (ready_idle hr)]
  simp [State.perform, State.sendPolarity]

/-- INVERT with more work behind it (R210). -/
theorem settle_invert_cons (s : State) (ts : List Task) {depth left : Nat} (fuel : Nat) (hd : s.within depth left)
    (hr : s.busReady = true) :
    State.settle depth left (xferFuel 1 + 1 + fuel) (s.pushTasks (.invert :: ts)) =
      State.settle depth left fuel
        ((afterXfer .command 1 (oneByte (wireInv (s.pol ^^^ 1))) { s with pol := s.pol ^^^ 1 }).pushTasks ts) := by
  rw [show xferFuel 1 + 1 + fuel = xferFuel 1 + fuel + 1 by omega]
  refine (settle_perform_cons _ _ _ _ hd (ready_idle hr)).trans ?_
  refine Eq.trans (congrArg _ ?_) (settle_sendPolarity_cons { s with pol := s.pol ^^^ 1 } ts fuel hd hr)
  simp only [State.perform, State.startInvert, pushTasks_pol]
  unfold State.pushTasks State.setWork State.setRunning State.running
  cases h : s.hs <;> simp

/-- CNTSTEP's RENDER draws what COUNTER holds when it starts (R212). -/
theorem settle_renderCounter_cons (s : State) (ts : List Task) {depth left : Nat} (fuel : Nat) (hd : s.within depth left)
    (hr : s.busReady = true) (hp : s.par.renderPage.toNat ≤ glyphPageMax) (hc : s.par.renderCol.toNat ≤ renderColMax)
    (hv : renderable s.par s.counter = true) :
    State.settle depth left (renderFuel + fuel) (s.pushTasks (.renderCounter :: ts)) =
      State.settle depth left fuel ((afterRender s.counter s.par.renderPage s.par.renderCol s).pushTasks ts) := by
  rw [← settle_render_cons s.counter s.par.renderPage s.par.renderCol s ts fuel hd hr hp hc hv]
  rw [show renderFuel + fuel = (renderFuel - 1 + fuel) + 1 by simp [renderFuel]; omega]
  rw [settle_perform_cons s _ ts _ hd (ready_idle hr), settle_perform_cons s _ ts _ hd (ready_idle hr)]
  simp [State.perform, State.renderCounter]

/-- CNTSTEP with more work behind it (R212). -/
theorem settle_cntstep_cons (s : State) (ts : List Task) {depth left : Nat} (fuel : Nat) (hd : s.within depth left)
    (hr : s.busReady = true) (hp : s.par.renderPage.toNat ≤ glyphPageMax) (hc : s.par.renderCol.toNat ≤ renderColMax)
    (hv : renderable s.par (s.counter + s.par.counterStep) = true) :
    State.settle depth left (renderFuel + 1 + fuel) (s.pushTasks (.cntstep :: ts)) =
      State.settle depth left fuel
        ((afterRender (s.counter + s.par.counterStep) s.par.renderPage s.par.renderCol
          { s with counter := s.counter + s.par.counterStep }).pushTasks ts) := by
  rw [show renderFuel + 1 + fuel = renderFuel + fuel + 1 by omega]
  refine (settle_perform_cons _ _ _ _ hd (ready_idle hr)).trans ?_
  refine Eq.trans (congrArg _ ?_) (settle_renderCounter_cons { s with counter := s.counter + s.par.counterStep } ts fuel hd hr hp
    hc hv)
  simp only [State.perform, State.startCntstep, pushTasks_par, pushTasks_counter, hv, if_true]
  unfold State.pushTasks State.setWork State.setRunning State.running
  cases h : s.hs <;> simp

/-- INVERT (R210). -/
theorem callOp_invert (s : State) (hr : s.busReady = true) :
    s.callOp .invert = afterXfer .command 1 (oneByte (wireInv (s.pol ^^^ 1))) { s with pol := s.pol ^^^ 1 } := by
  unfold State.callOp State.complete
  rw [show coreFuel = xferFuel 1 + 1 + 1013 from rfl, settle_invert_cons s [] _ (within_self s) hr, pushTasks_nil]
  exact settle_of_settled _ _ _ _ (settled_self (by simp [afterXfer]) (by simp; rfl))

/-- CNTSTEP (R212). -/
theorem callOp_cntstep (s : State) (hr : s.busReady = true) (hp : s.par.renderPage.toNat ≤ glyphPageMax)
    (hc : s.par.renderCol.toNat ≤ renderColMax) (hv : renderable s.par (s.counter + s.par.counterStep) = true) :
    s.callOp .cntstep =
      afterRender (s.counter + s.par.counterStep) s.par.renderPage s.par.renderCol
        { s with counter := s.counter + s.par.counterStep } := by
  unfold State.callOp State.complete
  rw [show coreFuel = renderFuel + 1 + 493 from rfl, settle_cntstep_cons s [] _ (within_self s) hr hp hc hv, pushTasks_nil]
  exact settle_of_settled _ _ _ _ (settled_self (by simp) (by simp; rfl))

/-! ## Handlers -/

/-- The entry, its work taken out. -/
theorem enter_eq (src : Source) (s : State) : s.enter src = ((s.enter src).setWork []).pushTasks [handlerTask src] := rfl

theorem inject_eq (src : Source) (s : State) (h : s.injectable src = true) :
    s.inject src =
      State.settle s.hs.length s.running.work.length coreFuel (((s.enter src).setWork []).pushTasks [handlerTask src]) := by
  simp only [State.injectable, Bool.and_eq_true, Bool.not_eq_true', decide_eq_true_eq] at h
  unfold State.inject
  rw [if_neg (by simp [h.1, h.2])]
  rfl

theorem within_entered (src : Source) (s : State) :
    ((s.enter src).setWork []).within s.hs.length s.running.work.length := by
  left
  simp [State.enter]

theorem entered_still (src : Source) (s : State) (h : s.peripheralStill = true) :
    (((s.enter src).setWork []).par.serLive && ((s.enter src).setWork []).serEnabled) = false := by
  simp only [State.peripheralStill, Bool.not_eq_true'] at h
  simpa [State.serEnabled, State.serAcceptEnabled] using h

/-- DLEXP (R125). -/
theorem inject_dlexp (ch : Channel) (s : State) (h : s.injectable (deadlineSource ch) = true) (hs : s.peripheralStill = true) :
    s.inject (deadlineSource ch) = afterDeadline ch s := by
  rw [inject_eq _ _ h, show coreFuel = 1023 + 1 from rfl]
  rw [settle_perform _ _ _ (within_entered _ s) (entered_still _ s hs)]
  simp only [State.injectable, Bool.and_eq_true, Bool.not_eq_true', decide_eq_true_eq] at h
  have key : State.perform (handlerTask (deadlineSource ch)) ((s.enter (deadlineSource ch)).setWork []) = afterDeadline ch s := by
    cases ch <;> cases hg : s.par.irqEntryClearsGie <;> cases s <;>
      simp_all [handlerTask, deadlineSource, State.perform, State.deadlineExpired, State.disarm, State.enter, State.setInService,
        State.setWork, State.setRunning, State.running, State.setChan, State.chan, State.returnFromHandler, afterDeadline,
        State.inService]
  rw [key]
  refine settle_of_settled _ _ _ _ (settled_self ?_ ?_) <;> cases ch <;> rfl

/-- TMROTHER (R144). -/
theorem inject_tmrother (s : State) (h : s.injectable .tmrother = true) (hs : s.peripheralStill = true) :
    s.inject .tmrother = { s with tmrOtherPend := false, draws := s.draws + 1 } := by
  rw [inject_eq _ _ h, show coreFuel = 1023 + 1 from rfl]
  rw [settle_perform _ _ _ (within_entered _ s) (entered_still _ s hs)]
  have key : State.perform (handlerTask .tmrother) ((s.enter .tmrother).setWork []) =
      { s with tmrOtherPend := false, draws := s.draws + 1 } := by
    cases hg : s.par.irqEntryClearsGie <;>
      simp [handlerTask, State.perform, State.otherTimer, State.enter, State.setInService, State.setWork, State.setRunning,
        State.running, State.returnFromHandler, hg]
  rw [key]
  exact settle_of_settled _ _ _ _ (settled_self rfl rfl)

theorem pinDecide_still (ch : Channel) (u : State) (h : (u.par.serLive && u.serEnabled) = false) :
    ((u.pinDecide ch).par.serLive && (u.pinDecide ch).serEnabled) = false := by
  simpa [State.pinDecide, State.serEnabled, State.serAcceptEnabled] using h

theorem pinDecide_within (ch : Channel) (u : State) {depth left : Nat} (h : u.within depth left) :
    (u.pinDecide ch).within depth left := by
  simpa [State.pinDecide] using h

/-- The handler's first step, in its fresh activation (R122). -/
theorem settle_pinDecide (ch : Channel) (u : State) {depth left : Nat} (fuel : Nat) (hd : u.within depth left)
    (hs : (u.par.serLive && u.serEnabled) = false) (hi : (u.chan ch).dph = .idle) :
    State.settle depth left (fuel + 1) (u.pushTasks [.pinHandler ch]) =
      State.settle depth left fuel ((u.pinDecide ch).pushTasks [.pinHandler ch]) := by
  rw [settle_perform _ _ _ hd hs]
  simp only [State.perform, State.pinStep, hi]

/-- PINCHG on the paths that do not act (R121 (a), (b)). -/
theorem inject_pin_idle (ch : Channel) (s : State) (h : s.injectable (pinSource ch) = true) (hs : s.peripheralStill = true)
    (hi : (s.chan ch).dph = .idle) (hq : s.qualifies ch = false) : s.inject (pinSource ch) = afterIdlePin ch s := by
  rw [inject_eq _ _ h, show coreFuel = 1022 + 1 + 1 from rfl]
  have hi' : (((s.enter (pinSource ch)).setWork []).chan ch).dph = .idle := by
    cases ch <;> simpa [State.chan] using hi
  have ht : handlerTask (pinSource ch) = .pinHandler ch := by cases ch <;> rfl
  rw [ht, settle_pinDecide ch _ _ (within_entered _ s) (entered_still _ s hs) hi']
  rw [settle_perform _ _ _ (pinDecide_within _ _ (within_entered _ s)) (pinDecide_still _ _ (entered_still _ s hs))]
  simp only [State.injectable, Bool.and_eq_true, Bool.not_eq_true', decide_eq_true_eq] at h
  have key : State.perform (.pinHandler ch) (((s.enter (pinSource ch)).setWork []).pinDecide ch) = afterIdlePin ch s := by
    have hq' : ((s.enter (pinSource ch)).setWork []).qualifies ch = false :=
      (show _ = s.qualifies ch by cases ch <;> rfl).trans hq
    rw [State.pinDecide, hq']
    clear hq hq' hs
    cases ch <;> cases hg : s.par.irqEntryClearsGie <;> cases s <;>
      simp_all [pinSource, State.perform, State.pinStep, State.pinFinish, State.enter,
        State.setInService, State.setWork, State.setRunning, State.running, State.setChan, State.chan,
        State.returnFromHandler, afterIdlePin, State.inService]
  rw [key]
  refine settle_of_settled _ _ _ _ (settled_self ?_ ?_) <;> cases ch <;> rfl

/-- The end of the handler of a press: suppress, arm, finish, from what the action left (R123, R124). -/
theorem settle_press_end (ch : Channel) (s a : State) {c : Ctx} (fuel : Nat)
    (hhs : a.hs = { source := pinSource ch, gieAtEntry := s.gie, ctx := c } :: s.hs)
    (hn : s.inService (pinSource ch) = false) (hch : a.chan ch = { (s.enter (pinSource ch)).chan ch with dph := .act })
    (hp : a.par = s.par) (ht : a.cnt = s.cnt) (hg : s.par.irqEntryClearsGie = false → a.gie = s.gie)
    (hm : a.main = s.main) (hi : (s.chan ch).dph = .idle)
    (he : (s.chan ch).edgeSel = .press) (hs : (a.par.serLive && a.serEnabled) = false) :
    State.settle s.hs.length s.running.work.length (fuel + 1 + 1) (a.pushTasks [.actArm ch]) = afterPress ch a s := by
  have hd : a.within s.hs.length s.running.work.length := by left; simp [hhs]
  rw [settle_perform _ _ _ hd hs]
  simp only [State.perform]
  have hs2 : ((a.suppressAndArm ch).par.serLive && (a.suppressAndArm ch).serEnabled) = false := by
    simpa [State.suppressAndArm, State.arm, State.serEnabled, State.serAcceptEnabled] using hs
  rw [settle_perform _ _ _ (by simpa [State.suppressAndArm, State.arm] using hd) hs2]
  have key : State.perform (.pinHandler ch) (a.suppressAndArm ch) = afterPress ch a s := by
    clear hs hs2
    cases ch <;> cases hgv : s.par.irqEntryClearsGie <;> cases a <;> cases s <;>
      simp_all [pinSource, State.perform, State.pinStep, State.suppressAndArm, State.arm, State.pinFinish, State.enter,
        State.setInService, State.setChan, State.chan, State.returnFromHandler, afterPress, State.inService, flipEdge]
  rw [key]
  refine settle_of_settled _ _ _ _ (settled_self ?_ ?_)
  · cases ch <;> rfl
  · cases ch <;> simp [afterPress, State.running, State.setChan, hm]

/-- A press up to the call of its action (R122, R123). -/
theorem inject_press (ch : Channel) (s : State) (h : s.injectable (pinSource ch) = true) (hs : s.peripheralStill = true)
    (hi : (s.chan ch).dph = .idle) (hq : s.qualifies ch = true) :
    s.inject (pinSource ch) =
      State.settle s.hs.length s.running.work.length 1022
        (State.pushTasks [boundAction ch, .actArm ch]
          ((actingIn ch s).setChan ch { (s.enter (pinSource ch)).chan ch with dph := .act })) := by
  rw [inject_eq _ _ h, show coreFuel = 1022 + 1 + 1 from rfl]
  have hi' : (((s.enter (pinSource ch)).setWork []).chan ch).dph = .idle := by
    cases ch <;> simpa [State.chan] using hi
  have ht : handlerTask (pinSource ch) = .pinHandler ch := by cases ch <;> rfl
  rw [ht, settle_pinDecide ch _ _ (within_entered _ s) (entered_still _ s hs) hi']
  rw [settle_perform _ _ _ (pinDecide_within _ _ (within_entered _ s)) (pinDecide_still _ _ (entered_still _ s hs))]
  congr 1
  have hq' : ((s.enter (pinSource ch)).setWork []).qualifies ch = true :=
    (show _ = s.qualifies ch by cases ch <;> rfl).trans hq
  rw [State.pinDecide, hq']
  cases ch <;> rfl

theorem busReady_still {s : State} (h : s.busReady = true) : s.peripheralStill = true := by
  simp only [State.peripheralStill, Bool.not_eq_true']
  exact ready_idle h

/-- A press of the polarity button (R121 (c), R210). -/
theorem inject_press_invert (s : State) (h : s.injectable .pinchg2 = true) (hr : s.busReady = true)
    (hi : s.ch2.dph = .idle) (hq : s.qualifies .two = true) :
    s.inject .pinchg2 =
      afterPress .two
        (afterXfer .command 1 (oneByte (wireInv (s.pol ^^^ 1))) { actingIn .two s with pol := s.pol ^^^ 1 }) s := by
  have hn := h
  simp only [State.injectable, Bool.and_eq_true, Bool.not_eq_true', decide_eq_true_eq] at hn
  simp only [State.qualifies, Bool.and_eq_true, decide_eq_true_eq] at hq
  refine (inject_press .two s h (busReady_still hr) hi (by simp [State.qualifies, hq])).trans ?_
  have hr' : ((actingIn .two s).setChan .two { (s.enter .pinchg2).chan .two with dph := .act }).busReady = true := by
    simpa [State.busReady, actingIn] using hr
  rw [show 1022 = xferFuel 1 + 1 + (1009 + 1 + 1) from rfl]
  refine (settle_invert_cons _ [.actArm .two] _ (by left; simp [actingIn, State.enter]) hr').trans ?_
  refine (settle_press_end .two s _ (c := { (Ctx.fresh [handlerTask .pinchg2] s.nextDraw.locals) with work := [] }) _ ?_ hn.1 ?_
    ?_ ?_ ?_ ?_ hi hq.2 ?_).trans ?_
  · rfl
  · rfl
  · rfl
  · simp [afterXfer, actingIn]
  · intro hg; simp [afterXfer, actingIn, State.enter, hg]
  · rfl
  · exact ready_idle (by simpa [State.busReady, actingIn, afterXfer] using hr)
  · rfl

/-- Only the running context of `s` has been written. -/
def State.ranIn (t s : State) : Prop := ∃ c, t.hs = (s.setRunning c).hs ∧ t.main = (s.setRunning c).main

theorem ranIn_trans {t u s : State} (h1 : t.ranIn u) (h2 : u.ranIn s) : t.ranIn s := by
  obtain ⟨c, a1, a2⟩ := h1
  obtain ⟨d, b1, b2⟩ := h2
  refine ⟨c, ?_, ?_⟩
  · rw [a1]
    unfold State.setRunning at *
    cases hs : s.hs <;> simp_all
  · rw [a2]
    unfold State.setRunning at *
    cases hs : s.hs <;> simp_all

theorem afterGlyph_ranIn (idx page : BitVec 4) (col : BitVec 8) (s : State) : (afterGlyph idx page col s).ranIn s :=
  ⟨{ s.running with bph := .idle, loc := { s.running.loc with bidx := idx, bpage := page, bcol := col } }, by
    unfold State.setRunning
    cases hs : s.hs <;>
      simp [afterGlyph, afterXfer, State.setBph, State.setLocals, State.setRunning, State.running, hs], by
    unfold State.setRunning
    cases hs : s.hs <;>
      simp [afterGlyph, afterXfer, State.setBph, State.setLocals, State.setRunning, State.running, hs]⟩

theorem afterRender_ranIn (v : Int) (page : BitVec 4) (col : BitVec 8) (s : State) : (afterRender v page col s).ranIn s := by
  have key : ∀ (ks : List Nat) (u : State), u.ranIn s →
      (ks.foldl (fun t k => afterGlyph ((renderIndices v).getD k glyphBlank) page (renderColumn col k) t) u).ranIn s := by
    intro ks
    induction ks with
    | nil => exact fun u h => h
    | cons k ks ih => exact fun u h => ih _ (ranIn_trans (afterGlyph_ranIn _ _ _ _) h)
  exact key _ _ ⟨_, rfl, rfl⟩

/-- A property of a state that neither a transfer nor the running context's latches touch survives a RENDER. -/
theorem afterRender_keeps {α : Type} (f : State → α) (h1 : ∀ m n b (s : State), f (afterXfer m n b s) = f s)
    (h2 : ∀ (s : State) (c : Ctx), f (s.setRunning c) = f s) (v : Int) (page : BitVec 4) (col : BitVec 8) (s : State) :
    f (afterRender v page col s) = f s := by
  have hg : ∀ idx p c (u : State), f (afterGlyph idx p c u) = f u := by
    intro idx p c u
    simp only [afterGlyph, State.setBph, State.setLocals, h1, h2]
  have key : ∀ (ks : List Nat) (u : State),
      f (ks.foldl (fun t k => afterGlyph ((renderIndices v).getD k glyphBlank) page (renderColumn col k) t) u) = f u := by
    intro ks
    induction ks with
    | nil => exact fun u => rfl
    | cons k ks ih => exact fun u => (ih _).trans (hg _ _ _ _)
  exact (key _ _).trans (h2 _ _)

/-- A press of the counter button whose sum fits (R121 (c), R212). -/
theorem inject_press_cntstep (s : State) (h : s.injectable .pinchg1 = true) (hr : s.busReady = true)
    (hi : s.ch1.dph = .idle) (hq : s.qualifies .one = true) (hp : s.par.renderPage.toNat ≤ glyphPageMax)
    (hc : s.par.renderCol.toNat ≤ renderColMax) (hv : renderable s.par (s.counter + s.par.counterStep) = true) :
    s.inject .pinchg1 =
      afterPress .one
        (afterRender (s.counter + s.par.counterStep) s.par.renderPage s.par.renderCol
          { (actingIn .one s).setChan .one { (s.enter .pinchg1).ch1 with dph := .act } with
            counter := s.counter + s.par.counterStep }) s := by
  have hn := h
  simp only [State.injectable, Bool.and_eq_true, Bool.not_eq_true', decide_eq_true_eq] at hn
  simp only [State.qualifies, Bool.and_eq_true, decide_eq_true_eq] at hq
  refine (inject_press .one s h (busReady_still hr) hi (by simp [State.qualifies, hq])).trans ?_
  have hr' : ((actingIn .one s).setChan .one { (s.enter .pinchg1).chan .one with dph := .act }).busReady = true := by
    simpa [State.busReady, actingIn] using hr
  rw [show 1022 = renderFuel + 1 + (489 + 1 + 1) from rfl]
  refine (settle_cntstep_cons _ [.actArm .one] _ (by left; simp [actingIn, State.enter]) hr' hp hc hv).trans ?_
  obtain ⟨c, hc1, hc2⟩ := afterRender_ranIn (s.counter + s.par.counterStep) s.par.renderPage s.par.renderCol
    { (actingIn .one s).setChan .one { (s.enter .pinchg1).ch1 with dph := .act } with
      counter := s.counter + s.par.counterStep }
  refine (settle_press_end .one s _ (c := c) _ ?_ hn.1 ?_ ?_ ?_ ?_ ?_ hi hq.2 ?_).trans ?_
  · exact hc1
  · exact afterRender_keeps (fun t => t.ch1) (fun _ _ _ _ => rfl) (by simp) _ _ _ _
  · exact afterRender_keeps (fun t => t.par) (fun _ _ _ _ => rfl) (by simp) _ _ _ _
  · exact (afterRender_keeps (fun t => t.cnt) (fun _ _ _ _ => rfl) (by simp) _ _ _ _).trans (by simp [actingIn])
  · intro hg
    exact (afterRender_keeps (fun t => t.gie) (fun _ _ _ _ => rfl) (by simp) _ _ _ _).trans
      (by simp [actingIn, State.enter, hg])
  · exact hc2
  · refine ready_idle ?_
    rw [afterRender_keeps State.busReady (by intros; rfl) (by simp [State.busReady])]
    simpa [State.busReady, actingIn] using hr
  · rfl

/-- A press of the counter button whose sum does not fit (R121, R212): the action is refused and the handler goes on
(assumption log 5). -/
theorem inject_press_refused (s : State) (h : s.injectable .pinchg1 = true) (hs : s.peripheralStill = true)
    (hi : s.ch1.dph = .idle) (hq : s.qualifies .one = true)
    (hv : renderable s.par (s.counter + s.par.counterStep) = false) :
    s.inject .pinchg1 = afterPress .one ((actingIn .one s).refuse .valueRange) s := by
  have hn := h
  simp only [State.injectable, Bool.and_eq_true, Bool.not_eq_true', decide_eq_true_eq] at hn
  simp only [State.qualifies, Bool.and_eq_true, decide_eq_true_eq] at hq
  refine (inject_press .one s h hs hi (by simp [State.qualifies, hq])).trans ?_
  have hst : ((actingIn .one s).setChan .one { (s.enter .pinchg1).chan .one with dph := .act }).peripheralStill = true := by
    simpa [State.peripheralStill, State.serEnabled, State.serAcceptEnabled, actingIn] using hs
  simp only [State.peripheralStill, Bool.not_eq_true'] at hst
  rw [show 1022 = 1019 + 1 + 1 + 1 from rfl]
  refine (settle_perform_cons _ _ _ _ (by left; simp [actingIn, State.enter]) hst).trans ?_
  have key : State.perform (boundAction .one) (((actingIn .one s).setChan .one { (s.enter .pinchg1).chan .one with
      dph := .act }).pushTasks [.actArm .one]) =
      (((actingIn .one s).setChan .one { (s.enter .pinchg1).chan .one with dph := .act }).refuse .valueRange).pushTasks
        [.actArm .one] := by
    simp only [boundAction, State.perform, State.startCntstep]
    rw [if_neg]
    · rfl
    · simpa [actingIn] using hv
  refine (congrArg _ key).trans ?_
  refine (settle_press_end .one s _ (c := { (Ctx.fresh [handlerTask .pinchg1] s.nextDraw.locals) with work := [] }) _ ?_ hn.1 ?_
    ?_ ?_ ?_ ?_ hi hq.2 ?_).trans ?_
  · rfl
  · rfl
  · rfl
  · simp [actingIn, State.refuse]
  · intro hg; simp [actingIn, State.enter, State.refuse, hg]
  · rfl
  · exact hst
  · rfl

end Sys2Proof.Machine
end

