-- ==== Sys2Proof/Laws/Frames.lean ====
section
/-! SUPPORT. The wire (spec/20_memory.md R64, R71, R76, spec/42_displaybus.md R172): it is a sequence of whole frames and the part of
one that the framer's phase says, whatever the order of the framer's and the peripheral's steps. -/

namespace Sys2Proof.Machine

theorem scanWire_append (w : List WireEvent) (e : WireEvent) : scanWire (w ++ [e]) = (scanWire w).next e := by
  simp [scanWire]

theorem bytesUpTo_succ (k : Nat) (b : Bytes6) : bytesUpTo (k + 1) b = bytesUpTo k b ++ [getByte b k] := by
  simp [bytesUpTo, List.range_succ]

@[simp] theorem bytesUpTo_length (k : Nat) (b : Bytes6) : (bytesUpTo k b).length = k := by simp [bytesUpTo]

/-- What the frame invariant reads of the state. -/
theorem frameInv_congr {s t : State} (h1 : t.xph = s.xph) (h2 : t.wire = s.wire) (h3 : t.cs = s.cs) (h4 : t.cd = s.cd)
    (h5 : t.txrdy = s.txrdy) (h6 : t.shbusy = s.shbusy) (h7 : t.shreg = s.shreg) (h8 : t.txbuf = s.txbuf)
    (h9 : t.xbuf = s.xbuf) (h10 : t.xidx = s.xidx) (h11 : t.xlen = s.xlen) (h12 : t.xmode = s.xmode) (h : s.frameInv) :
    t.frameInv := by
  simpa only [State.frameInv, State.bytesInOrder, State.inFlight, State.serIdle, State.lenLegal, h1, h2, h3, h4, h5, h6, h7,
    h8, h9, h10, h11, h12] using h

theorem frameInv_setRunning {s : State} (h : s.frameInv) (c : Ctx) : (s.setRunning c).frameInv :=
  frameInv_congr (by simp) (by simp) (by simp) (by simp) (by simp) (by simp) (by simp) (by simp) (by simp) (by simp)
    (by simp) (by simp) h

theorem frameInv_pushTasks {s : State} (h : s.frameInv) (ts : List Task) : (s.pushTasks ts).frameInv :=
  frameInv_setRunning h _

theorem frameInv_setChan {s : State} (h : s.frameInv) (ch : Channel) (c : Chan) : (s.setChan ch c).frameInv := by
  cases ch <;> exact h

theorem frameInv_enter {s : State} (h : s.frameInv) (src : Source) : (s.enter src).frameInv :=
  frameInv_congr (by simp) (by simp) (by simp) (by simp) (by simp) (by simp) (by simp) (by simp) (by simp) (by simp)
    (by simp) (by simp) h

theorem frameInv_return {s : State} (h : s.frameInv) : s.returnFromHandler.frameInv :=
  frameInv_congr (by simp) (by simp) (by simp) (by simp) (by simp) (by simp) (by simp) (by simp) (by simp) (by simp)
    (by simp) (by simp) h

theorem bytesInOrder_accept {s : State} (h : s.bytesInOrder) : s.serAccept.bytesInOrder := by
  unfold State.serAccept
  split
  · rename_i he
    simp only [State.serAcceptEnabled, Bool.and_eq_true, Bool.not_eq_true'] at he
    obtain ⟨k, h1, h2, -, h4⟩ := h
    refine ⟨k, ?_, h2, fun _ => ?_, by simp⟩
    · simpa [State.inFlight, he.1, he.2] using h1
    · simpa [he.2] using h4 he.1
  · exact h

theorem bytesInOrder_shift {s : State} (h : s.bytesInOrder) : s.serShift.bytesInOrder := by
  unfold State.serShift
  split
  · rename_i he
    obtain ⟨k, h1, h2, h3, h4⟩ := h
    have hs := h3 he
    refine ⟨k + 1, ?_, ?_, by simp, fun ht => ?_⟩
    · have h1' : k + ((if s.txrdy = true then 0 else 1) + 1) = s.xidx := by simpa [State.inFlight, he] using h1
      show k + 1 + ((if s.txrdy = true then 0 else 1) + 0) = s.xidx
      omega
    · simp only [State.wireEmit, scanWire_append, h2, Scan.next, if_true, bytesUpTo_succ, hs]
    · simpa [he, State.wireEmit] using h4 ht
  · exact h

theorem serIdle_accept {s : State} (h : s.serIdle = true) : s.serAccept = s := by
  simp only [State.serIdle, Bool.and_eq_true, Bool.not_eq_true'] at h
  simp [State.serAccept, State.serAcceptEnabled, h.1]

theorem serIdle_shift {s : State} (h : s.serIdle = true) : s.serShift = s := by
  simp only [State.serIdle, Bool.and_eq_true, Bool.not_eq_true'] at h
  simp [State.serShift, h.2]

/-- In the two phases in which the peripheral works, its steps keep the rest of the invariant. -/
theorem frameInv_ser {s t : State} (hb : s.bytesInOrder → t.bytesInOrder) (hi : s.serIdle = true → t = s)
    (h1 : t.xph = s.xph) (h3 : t.cs = s.cs) (h4 : t.cd = s.cd) (h10 : t.xidx = s.xidx) (h11 : t.xlen = s.xlen)
    (h12 : t.xmode = s.xmode) (h : s.frameInv) : t.frameInv := by
  have same : s.serIdle = true → t.frameInv := fun hs => by rw [hi hs]; exact h
  unfold State.frameInv at h
  split at h <;> rename_i hx
  · exact same h.2.2
  · exact same h.2.2.1
  · exact same h.2.2.1
  · unfold State.frameInv
    rw [h1, hx]
    refine ⟨hb h.1, ?_⟩
    simpa [State.lenLegal, h3, h4, h10, h11, h12] using h.2
  · unfold State.frameInv
    rw [h1, hx]
    refine ⟨hb h.1, ?_⟩
    simpa [State.lenLegal, h3, h4, h10, h11, h12] using h.2
  · exact same h.2.2.2.1
  · exact same h.2.2.2.1
  · exact same h.2.2

theorem frameInv_serAccept {s : State} (h : s.frameInv) : s.serAccept.frameInv := by
  refine frameInv_ser bytesInOrder_accept serIdle_accept ?_ ?_ ?_ ?_ ?_ ?_ h <;> (unfold State.serAccept; split <;> rfl)

theorem frameInv_serShift {s : State} (h : s.frameInv) : s.serShift.frameInv := by
  refine frameInv_ser bytesInOrder_shift serIdle_shift ?_ ?_ ?_ ?_ ?_ ?_ h <;> (unfold State.serShift; split <;> rfl)

theorem xferCheck_none {n : Nat} {s : State} (h : xferCheck n s = none) : (1 ≤ n ∧ n ≤ xferMaxLen) ∧ s.xph = .idle := by
  unfold xferCheck at h
  split at h
  · cases h
  · rename_i hx
    split at h
    · cases h
    · rename_i hn
      exact ⟨by omega, by simpa using hx⟩

theorem frameInv_startXfer {s : State} (h : s.frameInv) (m : Mode) (n : Nat) (b : Bytes6) : (s.startXfer m n b).frameInv := by
  unfold State.startXfer
  split
  · exact h
  · rename_i hc
    obtain ⟨hn, hx⟩ := xferCheck_none hc
    unfold State.frameInv at h
    rw [hx] at h
    refine frameInv_pushTasks ?_ _
    exact ⟨h.1, h.2.1, h.2.2, hn, rfl⟩

theorem frameInv_framerStep {s : State} (h : s.frameInv) : s.framerStep.frameInv := by
  unfold State.framerStep
  unfold State.frameInv at h
  split <;> rename_i hx <;> rw [hx] at h
  · unfold State.frameInv; rw [hx]; exact h
  · refine frameInv_pushTasks ?_ _
    exact ⟨by simp [State.phaseSelect, State.wireEmit, scanWire_append, h.1, Scan.next], rfl, h.2.2.1, h.2.2.2.1, h.2.2.2.2⟩
  · refine frameInv_pushTasks ?_ _
    obtain ⟨h1, h2, h3, h4, h5⟩ := h
    simp only [State.serIdle, Bool.and_eq_true, Bool.not_eq_true'] at h3
    refine ⟨⟨0, ?_, ?_, ?_, ?_⟩, h2, rfl, h4, ?_⟩
    · simp [State.inFlight, State.phaseMode, State.wireEmit, h3.1, h3.2, h5]
    · simp [State.phaseMode, State.wireEmit, scanWire_append, h1, Scan.next, bytesUpTo]
    · simp [State.phaseMode, State.wireEmit, h3.2]
    · simp [State.phaseMode, State.wireEmit, h3.1]
    · have := h4.1
      simp only [State.phaseMode, State.wireEmit, h5]
      omega
  · refine frameInv_pushTasks ?_ _
    unfold State.phaseByte
    split
    · rename_i ht
      obtain ⟨⟨k, h1, h2, h3, h4⟩, hcs, hcd, hlen, hlt⟩ := h
      have hb : ∀ ph : XPhase, ({ s with
          txbuf := getByte s.xbuf s.xidx, txrdy := false, xidx := s.xidx + 1, xph := ph } : State).bytesInOrder := by
        intro ph
        simp only [State.inFlight, ht, if_true] at h1
        refine ⟨k, ?_, h2, h3, fun _ => ?_⟩
        · simp only [State.inFlight, Bool.false_eq_true, if_false]; omega
        · show getByte s.xbuf s.xidx = _
          rw [show s.xidx = k + (if s.shbusy = true then 1 else 0) by omega]
      by_cases hl : s.xidx + 1 = s.xlen
      · rw [if_pos hl]
        exact ⟨hb _, hcs, hcd, hlen, hl⟩
      · rw [if_neg hl]
        exact ⟨hb _, hcs, hcd, hlen, Nat.lt_of_le_of_ne hlt hl⟩
    · unfold State.frameInv; rw [hx]; exact h
  · refine frameInv_pushTasks ?_ _
    unfold State.phaseWaitIdle
    split
    · unfold State.frameInv; rw [hx]; exact h
    · rename_i hb
      obtain ⟨⟨k, h1, h2, h3, h4⟩, hcs, hcd, hlen, hlt⟩ := h
      simp only [State.busy, Bool.or_eq_true, Bool.not_eq_true', not_or, Bool.not_eq_false, Bool.not_eq_true] at hb
      simp only [State.inFlight, hb.1, hb.2, if_true, Bool.false_eq_true, if_false] at h1
      refine ⟨?_, hcs, hcd, by simp [State.serIdle, hb.1, hb.2], hlen, hlt⟩
      have hk : k = s.xlen := by omega
      show scanWire s.wire = .inside s.xmode (bytesUpTo s.xlen s.xbuf)
      rw [h2, hcd, hk]
  · refine frameInv_pushTasks ?_ _
    exact h
  · refine frameInv_pushTasks ?_ _
    obtain ⟨h1, -, -, h4, h5, -⟩ := h
    refine ⟨?_, rfl, h4⟩
    have h5' : 1 ≤ s.xlen ∧ s.xlen ≤ xferMaxLen := h5
    simp [State.phaseDeselect, State.wireEmit, scanWire_append, h1, Scan.next, h5']
  · exact h

theorem frameInv_startRender {s : State} (h : s.frameInv) (v : Int) (page : BitVec 4) (col : BitVec 8) :
    (s.startRender v page col).frameInv := by
  unfold State.startRender
  split
  · exact h
  · exact frameInv_pushTasks (frameInv_setRunning h _) _

theorem frameInv_perform {s : State} (h : s.frameInv) (t : Task) : (s.perform t).frameInv := by
  have plain : ∀ u : State, u.xph = s.xph → u.wire = s.wire → u.cs = s.cs → u.cd = s.cd → u.txrdy = s.txrdy →
      u.shbusy = s.shbusy → u.shreg = s.shreg → u.txbuf = s.txbuf → u.xbuf = s.xbuf → u.xidx = s.xidx → u.xlen = s.xlen →
      u.xmode = s.xmode → u.frameInv := fun u a b c d e f g i j k l m => frameInv_congr a b c d e f g i j k l m h
  cases t <;> simp only [State.perform]
  case xfer m n b => exact frameInv_startXfer h m n b
  case framer => exact frameInv_framerStep h
  case setpos page col =>
    unfold State.startSetpos
    split
    · exact h
    · exact frameInv_startXfer h _ _ _
  case glyph idx page col =>
    unfold State.startGlyph
    split
    · exact h
    · exact frameInv_pushTasks (frameInv_setRunning (frameInv_setRunning h _) _) _
  case glyphNext =>
    unfold State.glyphStep
    split
    · exact h
    all_goals first | exact frameInv_pushTasks (frameInv_setRunning h _) _ | exact frameInv_setRunning h _
  case render v page col => exact frameInv_startRender h _ _ _
  case sendPolarity => exact frameInv_startXfer h _ _ _
  case renderCounter => exact frameInv_startRender h _ _ _
  case renderNext k =>
    unfold State.renderStep
    split
    · exact frameInv_pushTasks h _
    · exact h
  case invert =>
    unfold State.startInvert
    refine frameInv_pushTasks ?_ _
    exact plain _ rfl rfl rfl rfl rfl rfl rfl rfl rfl rfl rfl rfl
  case cntstep =>
    unfold State.startCntstep
    split
    · refine frameInv_pushTasks ?_ _
      exact plain _ rfl rfl rfl rfl rfl rfl rfl rfl rfl rfl rfl rfl
    · exact h
  case pinHandler ch =>
    unfold State.pinStep
    split
    · exact frameInv_pushTasks (frameInv_setChan h _ _) _
    · unfold State.actLog
      refine frameInv_pushTasks ?_ _
      exact plain _ rfl rfl rfl rfl rfl rfl rfl rfl rfl rfl rfl rfl
    · exact frameInv_return (frameInv_setChan h _ _)
  case actArm ch =>
    refine frameInv_pushTasks ?_ _
    exact frameInv_setChan (frameInv_setChan (frameInv_setChan h _ _) _ _) _ _
  case dlexp ch => exact frameInv_return (frameInv_setChan (frameInv_setChan h _ _) _ _)
  case tmrother =>
    refine frameInv_return ?_
    exact plain _ rfl rfl rfl rfl rfl rfl rfl rfl rfl rfl rfl rfl

theorem frameInv_softStep {s : State} (h : s.frameInv) : s.softStep.frameInv := by
  unfold State.softStep
  split
  · exact h
  · exact frameInv_perform (frameInv_setRunning h _) _

end Sys2Proof.Machine
end

