-- ==== Sys2Proof/Laws/Mask.lean ====
section
/-! SUPPORT. The critical section (spec/10_state.md R52, spec/20_memory.md R71, spec/42_displaybus.md R161, R174): GIE is 0 in every
phase but X_IDLE and the transfer belongs to the running context, kept by each agent's step. -/

namespace Sys2Proof.Machine

/-- A context's work keeps the handler's own steps last; MAIN has none. -/
def State.workOk (s : State) : Prop :=
  (∀ t ∈ s.main.work, t.isHandler = false) ∧ ∀ r ∈ s.hs, handlerStepsLast r.ctx.work

theorem handlerStepsLast_append {ts w : List Task} (ht : ∀ t ∈ ts, t.isHandler = false) (hw : handlerStepsLast w) :
    handlerStepsLast (ts ++ w) := by
  intro t h
  cases w with
  | nil => exact ht t (by simpa using List.dropLast_subset _ h)
  | cons a l =>
    rw [List.dropLast_append_of_ne_nil (by simp)] at h
    rcases List.mem_append.1 h with h | h
    · exact ht t h
    · exact hw t h

theorem handlerStepsLast_cons {t : Task} {rest : List Task} (h : handlerStepsLast (t :: rest)) :
    (rest ≠ [] → t.isHandler = false) ∧ handlerStepsLast rest := by
  cases rest with
  | nil => exact ⟨by simp, by simp [handlerStepsLast]⟩
  | cons a l =>
    simp only [handlerStepsLast, List.dropLast_cons_cons, List.mem_cons] at h
    exact ⟨fun _ => h t (.inl rfl), fun u hu => h u (.inr hu)⟩

/-- What the running context's work must be like. -/
def State.ctxOk (s : State) (w : List Task) : Prop :=
  match s.hs with
  | [] => ∀ t ∈ w, t.isHandler = false
  | _ :: _ => handlerStepsLast w

theorem ctxOk_running {s : State} (h : s.workOk) : s.ctxOk s.running.work := by
  unfold State.ctxOk State.running
  split <;> rename_i hs
  · simpa [hs] using h.1
  · have := h.2; simp only [hs, List.mem_cons] at this; simpa [hs] using this _ (.inl rfl)

theorem workOk_setRunning {s : State} (h : s.workOk) (c : Ctx) (hc : s.ctxOk c.work) : (s.setRunning c).workOk := by
  unfold State.ctxOk at hc
  unfold State.setRunning
  split <;> rename_i hs
  · rw [hs] at hc; exact ⟨hc, by simp [hs]⟩
  · rw [hs] at hc
    refine ⟨h.1, ?_⟩
    intro r hr
    rcases List.mem_cons.1 hr with rfl | hr
    · exact hc
    · exact h.2 r (by rw [hs]; exact List.mem_cons_of_mem _ hr)

theorem workOk_congr {s t : State} (h0 : t.hs = s.hs) (h1 : t.main = s.main) (h : s.workOk) : t.workOk := by
  simpa [State.workOk, h0, h1] using h

theorem ctxOk_congr {s t : State} {w : List Task} (h0 : t.hs = s.hs) (h : s.ctxOk w) : t.ctxOk w := by
  simpa [State.ctxOk, h0] using h

theorem ctxOk_append {s : State} {ts w : List Task} (ht : ∀ t ∈ ts, t.isHandler = false) (h : s.ctxOk w) :
    s.ctxOk (ts ++ w) := by
  unfold State.ctxOk at *
  split <;> rename_i hs
  · rw [hs] at h
    intro t hm
    rcases List.mem_append.1 hm with hm | hm
    · exact ht t hm
    · exact h t hm
  · rw [hs] at h
    exact handlerStepsLast_append ht h

theorem workOk_pushTasks {s : State} (h : s.workOk) {ts : List Task} (ht : ∀ t ∈ ts, t.isHandler = false) :
    (s.pushTasks ts).workOk :=
  workOk_setRunning h _ (ctxOk_append ht (ctxOk_running h))

theorem workOk_keep {s : State} (h : s.workOk) (c : Ctx) (hc : c.work = s.running.work) : (s.setRunning c).workOk :=
  workOk_setRunning h c (by rw [hc]; exact ctxOk_running h)

theorem workOk_enter {s : State} (h : s.workOk) (src : Source) : (s.enter src).workOk := by
  refine ⟨by simpa using h.1, ?_⟩
  intro r hr
  simp only [State.enter, List.mem_cons] at hr
  rcases hr with rfl | hr
  · simp [handlerStepsLast, Ctx.fresh]
  · exact h.2 r hr

theorem workOk_return {s : State} (h : s.workOk) : s.returnFromHandler.workOk := by
  refine ⟨by simpa using h.1, ?_⟩
  intro r hr
  rw [returnFromHandler_hs] at hr
  exact h.2 r (List.mem_of_mem_tail hr)

theorem pushed_work {s u : State} {ts : List Task} (h : u.running.work = s.running.work) :
    ∃ us, (u.pushTasks ts).running.work = us ++ s.running.work := ⟨ts, by simp [h]⟩

/-- What a step of an operation other than the framer's does to the phase, the mask and the work: it starts a transfer from
X_IDLE, or leaves phase and mask and puts more of the operation before the work. -/
theorem perform_operation {s : State} {t : Task} (ht : t.isHandler = false) (hf : t ≠ .framer) (hw : s.workOk) :
    (s.perform t).workOk ∧
      ((s.xph = .idle ∧ (s.perform t).gie = false ∧ Task.framer ∈ (s.perform t).running.work) ∨
        ((s.perform t).xph = s.xph ∧ (s.perform t).gie = s.gie ∧
          ∃ ts, (s.perform t).running.work = ts ++ s.running.work)) := by
  have hx : ∀ m n b, (s.startXfer m n b).workOk ∧
      ((s.xph = .idle ∧ (s.startXfer m n b).gie = false ∧ Task.framer ∈ (s.startXfer m n b).running.work) ∨
        ((s.startXfer m n b).xph = s.xph ∧ (s.startXfer m n b).gie = s.gie ∧
          ∃ ts, (s.startXfer m n b).running.work = ts ++ s.running.work)) := by
    intro m n b
    unfold State.startXfer
    split
    · exact ⟨hw, .inr ⟨rfl, rfl, [], rfl⟩⟩
    · rename_i hc
      have hid : s.xph = .idle := by
        unfold xferCheck at hc
        split at hc
        · cases hc
        · rename_i h; simpa using h
      refine ⟨?_, .inl ⟨hid, by simp, by simp⟩⟩
      refine workOk_pushTasks ?_ (by simp [Task.isHandler])
      exact workOk_congr (s := s) rfl rfl hw
  have hr : ∀ v page col, (s.startRender v page col).workOk ∧
      ((s.xph = .idle ∧ (s.startRender v page col).gie = false ∧ Task.framer ∈ (s.startRender v page col).running.work) ∨
        ((s.startRender v page col).xph = s.xph ∧ (s.startRender v page col).gie = s.gie ∧
          ∃ ts, (s.startRender v page col).running.work = ts ++ s.running.work)) := by
    intro v page col
    unfold State.startRender
    split
    · exact ⟨hw, .inr ⟨rfl, rfl, [], rfl⟩⟩
    · refine ⟨?_, .inr ⟨by simp, by simp, pushed_work (by simp)⟩⟩
      refine workOk_pushTasks (workOk_keep hw _ (by simp)) ?_
      simp [Task.isHandler]
  cases t <;> simp only [State.perform]
  case xfer m n b => exact hx m n b
  case framer => exact absurd rfl hf
  case setpos page col =>
    unfold State.startSetpos
    split
    · exact ⟨hw, .inr ⟨rfl, rfl, [], rfl⟩⟩
    · exact hx _ _ _
  case glyph idx page col =>
    unfold State.startGlyph
    split
    · exact ⟨hw, .inr ⟨rfl, rfl, [], rfl⟩⟩
    · refine ⟨?_, .inr ⟨by simp, by simp, pushed_work (by simp)⟩⟩
      refine workOk_pushTasks (workOk_keep (workOk_keep hw _ (by simp)) _ (by simp)) ?_
      simp [Task.isHandler]
  case glyphNext =>
    unfold State.glyphStep
    split
    · exact ⟨hw, .inr ⟨rfl, rfl, [], rfl⟩⟩
    · exact ⟨workOk_pushTasks (workOk_keep hw _ (by simp)) (by simp [Task.isHandler]),
        .inr ⟨by simp, by simp, pushed_work (by simp)⟩⟩
    · exact ⟨workOk_pushTasks (workOk_keep hw _ (by simp)) (by simp [Task.isHandler]),
        .inr ⟨by simp, by simp, pushed_work (by simp)⟩⟩
    · exact ⟨workOk_pushTasks (workOk_keep hw _ (by simp)) (by simp [Task.isHandler]),
        .inr ⟨by simp, by simp, pushed_work (by simp)⟩⟩
    · exact ⟨workOk_keep hw _ (by simp), .inr ⟨by simp, by simp, [], by simp⟩⟩
  case render v page col => exact hr _ _ _
  case sendPolarity => exact hx _ _ _
  case renderCounter => exact hr _ _ _
  case renderNext k =>
    unfold State.renderStep
    split
    · exact ⟨workOk_pushTasks hw (by simp [Task.isHandler]), .inr ⟨by simp, by simp, pushed_work (by simp)⟩⟩
    · exact ⟨hw, .inr ⟨rfl, rfl, [], rfl⟩⟩
  case invert =>
    unfold State.startInvert
    refine ⟨workOk_pushTasks ?_ (by simp [Task.isHandler]), .inr ⟨by simp, by simp, pushed_work rfl⟩⟩
    exact workOk_congr (s := s) rfl rfl hw
  case cntstep =>
    unfold State.startCntstep
    split
    · refine ⟨workOk_pushTasks ?_ (by simp [Task.isHandler]), .inr ⟨by simp, by simp, pushed_work rfl⟩⟩
      exact workOk_congr (s := s) rfl rfl hw
    · exact ⟨hw, .inr ⟨rfl, rfl, [], rfl⟩⟩
  all_goals exact absurd ht (by simp [Task.isHandler])

/-- What a handler's own step does to the phase: nothing. -/
theorem perform_handler_xph {s : State} {t : Task} (ht : t.isHandler = true) : (s.perform t).xph = s.xph := by
  cases t <;> simp only [State.perform]
  case pinHandler ch =>
    unfold State.pinStep
    split
    · simp [State.pinDecide]
    · simp [State.actLog]
    · simp [State.pinFinish]
  case actArm ch => simp [State.suppressAndArm, State.arm]
  case dlexp ch => simp [State.deadlineExpired, State.disarm]
  case tmrother => simp [State.otherTimer]
  all_goals exact absurd ht Bool.false_ne_true

/-- A handler's own step, as the last of its context's work, keeps the work in order. -/
theorem perform_handler_work {s : State} {t : Task} (ht : t.isHandler = true) (hs : s.hs ≠ []) (hw : s.workOk)
    (hn : s.running.work = []) : (s.perform t).workOk := by
  have one : ∀ (u : State) (ts : List Task), u.workOk → u.hs ≠ [] → u.running.work = [] → handlerStepsLast ts →
      (u.pushTasks ts).workOk := by
    intro u ts hu hne hwork hts
    refine workOk_setRunning hu _ ?_
    obtain ⟨r, rest, hr⟩ := List.exists_cons_of_ne_nil hne
    simpa [State.ctxOk, hr, hwork] using hts
  cases t <;> simp only [State.perform]
  case pinHandler ch =>
    unfold State.pinStep
    split
    · refine one _ _ (workOk_congr (by simp [State.pinDecide]) (by simp [State.pinDecide]) hw) (by simpa [State.pinDecide] using hs)
        (by simpa [State.pinDecide] using hn) (by simp [handlerStepsLast])
    · unfold State.actLog
      refine one _ _ (workOk_congr (s := s) rfl rfl hw) hs hn ?_
      cases ch <;> simp [handlerStepsLast, boundAction, Task.isHandler]
    · exact workOk_return (workOk_congr (by simp) (by simp) hw)
  case actArm ch =>
    refine one _ _ (workOk_congr (by simp [State.suppressAndArm, State.arm]) (by simp [State.suppressAndArm, State.arm]) hw)
      (by simpa [State.suppressAndArm, State.arm] using hs) (by simpa [State.suppressAndArm, State.arm] using hn)
      (by simp [handlerStepsLast])
  case dlexp ch => exact workOk_return (workOk_congr (by simp [State.disarm]) (by simp [State.disarm]) hw)
  case tmrother => exact workOk_return (workOk_congr (s := s) rfl rfl hw)
  all_goals exact absurd ht Bool.false_ne_true

theorem maskInv_iff (s : State) :
    s.maskInv ↔ (s.xph ≠ .idle → s.gie = false ∧ Task.framer ∈ s.running.work) ∧ s.workOk := Iff.rfl

theorem framerStep_mask {s : State} (hw : s.workOk) (hg : s.xph ≠ .idle → s.gie = false) : s.framerStep.maskInv := by
  have push : ∀ u : State, u.hs = s.hs → u.main = s.main → u.gie = s.gie → s.xph ≠ .idle →
      (u.pushTasks [.framer]).maskInv := by
    intro u h0 h1 h2 hne
    refine ⟨fun _ => ⟨?_, by simp⟩, workOk_pushTasks (workOk_congr h0 h1 hw) (by simp [Task.isHandler])⟩
    rw [pushTasks_gie, h2]
    exact hg hne
  unfold State.framerStep
  split <;> rename_i hx
  · exact ⟨fun h => absurd hx h, hw⟩
  · exact push _ rfl rfl rfl (by simp [hx])
  · exact push _ rfl rfl rfl (by simp [hx])
  · unfold State.phaseByte
    split
    · exact push _ rfl rfl rfl (by simp [hx])
    · exact push _ rfl rfl rfl (by simp [hx])
  · unfold State.phaseWaitIdle
    split
    · exact push _ rfl rfl rfl (by simp [hx])
    · exact push _ rfl rfl rfl (by simp [hx])
  · exact push _ rfl rfl rfl (by simp [hx])
  · exact push _ rfl rfl rfl (by simp [hx])
  · exact ⟨fun h => absurd rfl h, workOk_congr (s := s) rfl rfl hw⟩

theorem maskInv_softStep {s : State} (h : s.maskInv) : s.softStep.maskInv := by
  obtain ⟨hm, hw⟩ := (maskInv_iff s).1 h
  unfold State.softStep
  split
  · exact h
  · rename_i t rest hwork
    have hctx := ctxOk_running hw
    rw [hwork] at hctx
    have hrest : s.ctxOk rest := by
      unfold State.ctxOk at *
      split <;> rename_i hs
      · rw [hs] at hctx; exact fun u hu => hctx u (List.mem_cons_of_mem _ hu)
      · rw [hs] at hctx; exact (handlerStepsLast_cons hctx).2
    have hw' : (s.setWork rest).workOk := workOk_setRunning hw _ hrest
    by_cases hf : t = .framer
    · subst hf
      exact framerStep_mask hw' (fun hx => by simpa using (hm (by simpa using hx)).1)
    · cases hh : t.isHandler
      · obtain ⟨h1, h2⟩ := perform_operation hh hf hw'
        refine (maskInv_iff _).2 ⟨fun hx => ?_, h1⟩
        rcases h2 with ⟨-, hg, hmem⟩ | ⟨hxe, hge, ts, hts⟩
        · exact ⟨hg, hmem⟩
        · have hx' : s.xph ≠ .idle := by rw [hxe] at hx; simpa using hx
          obtain ⟨hg, hmem⟩ := hm hx'
          rw [hwork] at hmem
          rcases List.mem_cons.1 hmem with hmem | hmem
          · exact absurd hmem.symm hf
          · rw [hge, hts]
            exact ⟨by simpa using hg, by simpa using Or.inr hmem⟩
      · have hne : s.hs ≠ [] := by
          intro hs
          unfold State.ctxOk at hctx
          rw [hs] at hctx
          simp [hctx t (by simp)] at hh
        have hnil : rest = [] := by
          obtain ⟨r, l, hr⟩ := List.exists_cons_of_ne_nil hne
          unfold State.ctxOk at hctx
          rw [hr] at hctx
          by_contra hc
          simp [(handlerStepsLast_cons hctx).1 hc] at hh
        subst hnil
        have hidle : s.xph = .idle := by
          by_contra hx
          have := (hm hx).2
          rw [hwork] at this
          simp only [List.mem_singleton] at this
          exact hf this.symm
        refine (maskInv_iff _).2 ⟨fun hx => ?_, perform_handler_work hh ?_ hw' (by simp)⟩
        · rw [perform_handler_xph hh] at hx
          exact absurd (by simpa using hidle) hx
        · intro hc
          exact hne (by simpa using congrArg List.length hc)

/-! ## Inside a transfer -/

/-- A step of an operation while a transfer is in flight: the phase stays out of X_IDLE and SAVED_GIE is kept, or phase 8 gives GIE back. -/
theorem perform_inFlight {s : State} {t : Task} (hx : s.xph ≠ .idle) (ht : t.isHandler = false) :
    ((s.perform t).xph ≠ .idle ∧ (s.perform t).savedGie = s.savedGie) ∨ ((s.perform t).xph = .idle ∧ (s.perform t).gie = s.savedGie) := by
  have hX : ∀ m n b, (s.startXfer m n b).xph ≠ .idle ∧ (s.startXfer m n b).savedGie = s.savedGie := by
    intro m n b
    unfold State.startXfer
    split
    · exact ⟨hx, rfl⟩
    · rename_i h; exact absurd (xferCheck_none h).2 hx
  have hR : ∀ v page col, (s.startRender v page col).xph ≠ .idle ∧ (s.startRender v page col).savedGie = s.savedGie := by
    intro v page col
    unfold State.startRender
    split
    · exact ⟨hx, rfl⟩
    · exact ⟨by simpa using hx, by simp⟩
  cases t <;> simp only [State.perform]
  case xfer m n b => exact .inl (hX _ _ _)
  case framer =>
    unfold State.framerStep
    split <;> rename_i h
    · exact absurd h hx
    · exact .inl ⟨by simp [State.phaseSelect], by simp [State.phaseSelect, State.wireEmit]⟩
    · exact .inl ⟨by simp [State.phaseMode], by simp [State.phaseMode, State.wireEmit]⟩
    · left; unfold State.phaseByte; split
      · refine ⟨?_, by simp⟩
        by_cases h2 : s.xidx + 1 = s.xlen <;> simp [h2]
      · exact ⟨by simpa using hx, by simp⟩
    · left; unfold State.phaseWaitIdle; split
      · exact ⟨by simpa using hx, by simp⟩
      · exact ⟨by simp, by simp⟩
    · exact .inl ⟨by simp [State.phaseDrain], by simp [State.phaseDrain]⟩
    · exact .inl ⟨by simp [State.phaseDeselect], by simp [State.phaseDeselect, State.wireEmit]⟩
    · exact .inr ⟨rfl, rfl⟩
  case setpos page col =>
    unfold State.startSetpos
    split
    · exact .inl ⟨hx, rfl⟩
    · exact .inl (hX _ _ _)
  case glyph idx page col =>
    unfold State.startGlyph
    split
    · exact .inl ⟨hx, rfl⟩
    · exact .inl ⟨by simpa using hx, by simp⟩
  case glyphNext =>
    unfold State.glyphStep
    split <;> exact .inl ⟨by simpa using hx, by simp⟩
  case render a page col => exact .inl (hR _ _ _)
  case sendPolarity => exact .inl (hX _ _ _)
  case renderCounter => exact .inl (hR _ _ _)
  case renderNext k =>
    unfold State.renderStep
    split <;> exact .inl ⟨by simpa using hx, by simp⟩
  case invert => exact .inl ⟨by simpa [State.startInvert] using hx, by simp [State.startInvert]⟩
  case cntstep =>
    unfold State.startCntstep
    split
    · exact .inl ⟨by simpa using hx, by simp⟩
    · exact .inl ⟨hx, rfl⟩
  all_goals simp [Task.isHandler] at ht

/-- The same of the running context's step. -/
theorem softStep_inFlight {s : State} (h : s.maskInv) (hx : s.xph ≠ .idle) :
   (s.softStep.xph ≠ .idle ∧ s.softStep.savedGie = s.savedGie ∧ s.softStep.gie = false) ∨ (s.softStep.xph = .idle ∧ s.softStep.gie = s.savedGie) := by
  have hm := maskInv_softStep h
  have hf := (h.1 hx).2
  have key : (s.softStep.xph ≠ .idle ∧ s.softStep.savedGie = s.savedGie) ∨ (s.softStep.xph = .idle ∧ s.softStep.gie = s.savedGie) := by
    unfold State.softStep
    split
    · rename_i e; simp [e] at hf
    · rename_i t rest e
      have ht : t.isHandler = false := by
        have c := ctxOk_running ((maskInv_iff s).1 h).2
        rw [e] at c hf
        by_cases hh : t = .framer
        · subst hh; rfl
        · unfold State.ctxOk at c
          split at c
          · exact c t (by simp)
          · refine (handlerStepsLast_cons c).1 ?_
            rintro rfl
            simp at hf; exact hh hf.symm
      have := perform_inFlight (s := s.setWork rest) (t := t) (by simpa using hx) ht
      simpa using this
  rcases key with ⟨a, b⟩ | k
  · exact .inl ⟨a, b, (hm.1 a).1⟩
  · exact .inr k

end Sys2Proof.Machine
end

