-- ==== Sys2Proof/Laws/Context.lean ====
section
/-! SUPPORT. What the running context's step does to the work, to the stack and to the other contexts (spec/10_state.md R41, R44),
and what a step of an operation does where GIE is 0. -/

namespace Sys2Proof.Machine

/-! ## The work -/

theorem setWork_same (s : State) {w : List Task} (h : s.running.work = w) : s.setWork w = s := by
  subst h
  show s.setRunning _ = s
  exact setRunning_running s

theorem softStep_cons (s : State) {t : Task} {rest : List Task} (h : s.running.work = t :: rest) : s.softStep = (s.setWork rest).perform t := by
  unfold State.softStep; simp [h]

theorem setWork_comm (f : State → State) (hf : ∀ (u : State) (m : Ctx) (h : List Activation), f { u with main := m, hs := h } = { f u with main := m, hs := h }) (s : State) (w : List Task) : f (s.setWork w) = (f s).setWork w := by
  have e : (f s).running = s.running := by
    have hh : (f s).hs = s.hs := by simpa using congrArg State.hs (hf s s.main s.hs)
    have hm : (f s).main = s.main := by simpa using congrArg State.main (hf s s.main s.hs)
    simp [State.running, hh, hm]
  unfold State.setWork
  rw [e]
  exact setRunning_update_comm s _ f hf

theorem setWork_pushTasks (s : State) (w ts : List Task) : (s.setWork w).pushTasks ts = s.setWork (ts ++ w) := by
  simp [State.pushTasks, State.setWork]

/-! ## The other contexts -/

/-- From `s0` to `u` only the running context's record has been written. -/
def Leaves (s0 u : State) : Prop :=
  (s0.hs = [] → u.hs = []) ∧
    ∀ r older, s0.hs = r :: older → u.main = s0.main ∧ ∃ c, u.hs = { r with ctx := c } :: older

/-- The same, or the running handler has returned. -/
def MayReturn (s0 u : State) : Prop :=
  (s0.hs = [] → u.hs = []) ∧
    ∀ r older, s0.hs = r :: older → u.main = s0.main ∧ (u.hs = older ∨ ∃ c, u.hs = { r with ctx := c } :: older)

theorem leaves_setRunning {s0 u : State} (h : Leaves s0 u) (c : Ctx) : Leaves s0 (u.setRunning c) := by
  refine ⟨fun e => ?_, fun r older e => ?_⟩
  · have := h.1 e; simp [State.setRunning, this]
  · obtain ⟨h1, c', h2⟩ := h.2 r older e
    exact ⟨by simp [State.setRunning, h2, h1], c, by simp [State.setRunning, h2]⟩
theorem leaves_pushTasks {s0 u : State} (h : Leaves s0 u) (ts) : Leaves s0 (u.pushTasks ts) := leaves_setRunning h _
theorem leaves_same {s0 u v : State} (h : Leaves s0 u) (h1 : v.hs = u.hs) (h2 : v.main = u.main) : Leaves s0 v := by
  unfold Leaves; rw [h1, h2]; exact h
theorem leaves_setChan {s0 u : State} (h : Leaves s0 u) (ch c) : Leaves s0 (u.setChan ch c) := by cases ch <;> exact leaves_same h rfl rfl
theorem leaves_mayReturn {s0 u : State} (h : Leaves s0 u) : MayReturn s0 u := ⟨h.1, fun r o e => ⟨(h.2 r o e).1, .inr (h.2 r o e).2⟩⟩
theorem leaves_return {s0 u : State} (h : Leaves s0 u) : MayReturn s0 u.returnFromHandler := by
  refine ⟨fun e => by simp [returnFromHandler_hs, h.1 e], fun r o e => ?_⟩
  obtain ⟨h1, c, h2⟩ := h.2 r o e
  exact ⟨by simp [h1], .inl (by simp [returnFromHandler_hs, h2])⟩
theorem leaves_startXfer {s0 u : State} (h : Leaves s0 u) (m n b) : Leaves s0 (u.startXfer m n b) := by
  unfold State.startXfer; split
  · exact leaves_same h rfl rfl
  · refine leaves_pushTasks ?_ _; exact leaves_same h rfl rfl
theorem leaves_startRender {s0 u : State} (h : Leaves s0 u) (v : Int) (page : BitVec 4) (col : BitVec 8) :
    Leaves s0 (u.startRender v page col) := by
  unfold State.startRender
  split
  · exact leaves_same h rfl rfl
  · exact leaves_pushTasks (leaves_setRunning h _) _

theorem leaves_perform {s0 u : State} (h : Leaves s0 u) (t : Task) : MayReturn s0 (u.perform t) := by
  cases t <;> simp only [State.perform]
  case xfer m n b => exact leaves_mayReturn (leaves_startXfer h _ _ _)
  case framer =>
    unfold State.framerStep
    refine leaves_mayReturn ?_
    split
    · exact h
    · refine leaves_pushTasks ?_ _; exact leaves_same h rfl rfl
    · refine leaves_pushTasks ?_ _; exact leaves_same h rfl rfl
    · refine leaves_pushTasks ?_ _; unfold State.phaseByte; split <;> exact leaves_same h rfl rfl
    · refine leaves_pushTasks ?_ _; unfold State.phaseWaitIdle; split <;> exact leaves_same h rfl rfl
    · refine leaves_pushTasks ?_ _; exact leaves_same h rfl rfl
    · refine leaves_pushTasks ?_ _; exact leaves_same h rfl rfl
    · exact (leaves_same h rfl rfl)
  case setpos page col =>
    unfold State.startSetpos
    split
    · exact leaves_mayReturn (leaves_same h rfl rfl)
    · exact leaves_mayReturn (leaves_startXfer h _ _ _)
  case glyph idx page col =>
    unfold State.startGlyph
    split
    · exact leaves_mayReturn (leaves_same h rfl rfl)
    · exact leaves_mayReturn (leaves_pushTasks (leaves_setRunning (leaves_setRunning h _) _) _)
  case glyphNext =>
    unfold State.glyphStep
    refine leaves_mayReturn ?_
    split
    · exact h
    · exact leaves_pushTasks (leaves_setRunning h _) _
    · exact leaves_pushTasks (leaves_setRunning h _) _
    · exact leaves_pushTasks (leaves_setRunning h _) _
    · exact leaves_setRunning h _
  case render v page col => exact leaves_mayReturn (leaves_startRender h _ _ _)
  case sendPolarity => exact leaves_mayReturn (leaves_startXfer h _ _ _)
  case renderCounter => exact leaves_mayReturn (leaves_startRender h _ _ _)
  case renderNext k =>
    unfold State.renderStep
    split
    · exact leaves_mayReturn (leaves_pushTasks h _)
    · exact leaves_mayReturn h
  case invert => unfold State.startInvert; refine leaves_mayReturn (leaves_pushTasks ?_ _); exact leaves_same h rfl rfl
  case cntstep =>
    unfold State.startCntstep
    split
    · refine leaves_mayReturn (leaves_pushTasks ?_ _); exact leaves_same h rfl rfl
    · exact leaves_mayReturn (leaves_same h rfl rfl)
  case pinHandler ch =>
    unfold State.pinStep
    split
    · exact leaves_mayReturn (leaves_pushTasks (leaves_setChan h _ _) _)
    · unfold State.actLog; refine leaves_mayReturn (leaves_pushTasks ?_ _); exact leaves_same h rfl rfl
    · exact leaves_return (leaves_setChan h _ _)
  case actArm ch => exact leaves_mayReturn (leaves_pushTasks (leaves_setChan (leaves_setChan (leaves_setChan h _ _) _ _) _ _) _)
  case dlexp ch => exact leaves_return (leaves_setChan (leaves_setChan h _ _) _ _)
  case tmrother => exact leaves_return (leaves_same h rfl rfl)

/-- The running context's step writes its own record, or returns. -/
theorem softStep_mayReturn (s : State) : MayReturn s s.softStep := by
  have h : Leaves s s := ⟨id, fun r o e => ⟨rfl, r.ctx, e⟩⟩
  unfold State.softStep
  split
  · exact leaves_mayReturn h
  · exact leaves_perform (leaves_setRunning h _) _

/-! ## An operation while GIE is 0 -/

/-- From `v` to `u` GIE stays 0, the stack is as deep as before, and the work of the operation comes before what there was. -/
structure Masked (v u : State) : Prop where
  gie : u.gie = false
  sv : u.xph ≠ .idle → u.savedGie = false
  hs : u.hs.length = v.hs.length
  port : u.port = v.port
  work : ∃ ts, (∀ t ∈ ts, Task.isHandler t = false) ∧ u.running.work = ts ++ v.running.work

theorem masked_setRunning {v u : State} (h : Masked v u) (c : Ctx) (hc : c.work = u.running.work) : Masked v (u.setRunning c) := by
  refine ⟨by simp [h.gie], by simpa using h.sv, by simp [h.hs], by simp [h.port], ?_⟩
  obtain ⟨ts, h1, h2⟩ := h.work
  exact ⟨ts, h1, by simp [hc, h2]⟩
theorem masked_pushTasks {v u : State} (h : Masked v u) (ts) (ht : ∀ t ∈ ts, Task.isHandler t = false) : Masked v (u.pushTasks ts) := by
  refine ⟨by simp [h.gie], by simpa using h.sv, by simp [h.hs], by simp [h.port], ?_⟩
  obtain ⟨us, h1, h2⟩ := h.work
  refine ⟨ts ++ us, ?_, by simp [h2]⟩
  intro t hh; rcases List.mem_append.1 hh with hh | hh
  · exact ht t hh
  · exact h1 t hh
theorem masked_startXfer {v : State} (h : Masked v v) (m n b) : Masked v (v.startXfer m n b) := by
  unfold State.startXfer
  split
  · exact ⟨h.gie, h.sv, h.hs, h.port, h.work⟩
  · refine masked_pushTasks ?_ _ (by simp [Task.isHandler])
    exact ⟨rfl, fun _ => h.gie, rfl, rfl, [], by simp, rfl⟩
theorem masked_same {v u w : State} (h : Masked v u) (h1 : w.gie = u.gie) (h2 : u.xph = .idle → w.xph = .idle) (h3 : w.savedGie = u.savedGie) (h4 : w.hs = u.hs) (h5 : w.main = u.main) (h6 : w.port = u.port) : Masked v w := by
  have e : w.running = u.running := by simp [State.running, h4, h5]
  refine ⟨h1.trans h.gie, fun hh => h3.trans (h.sv (fun e => hh (h2 e))), by rw [h4]; exact h.hs, h6.trans h.port, by rw [e]; exact h.work⟩
theorem masked_startRender {v : State} (h : Masked v v) (a : Int) (page : BitVec 4) (col : BitVec 8) :
    Masked v (v.startRender a page col) := by
  unfold State.startRender
  split
  · exact masked_same h rfl id rfl rfl rfl rfl
  · refine masked_pushTasks (masked_setRunning h _ ?_) _ ?_ <;> simp [Task.isHandler]

theorem masked_perform {v : State} (h : Masked v v) (t : Task) (ht : t.isHandler = false) : Masked v (v.perform t) := by
  cases t <;> simp only [State.perform]
  case xfer m n b => exact masked_startXfer h _ _ _
  case framer =>
    unfold State.framerStep
    split <;> rename_i hx
    · exact h
    · refine masked_pushTasks ?_ _ (by simp [Task.isHandler]); exact masked_same h rfl (by simp [hx]) rfl rfl rfl rfl
    · refine masked_pushTasks ?_ _ (by simp [Task.isHandler]); exact masked_same h rfl (by simp [hx]) rfl rfl rfl rfl
    · refine masked_pushTasks ?_ _ (by simp [Task.isHandler]); unfold State.phaseByte; split <;> exact masked_same h rfl (by simp [hx]) rfl rfl rfl rfl
    · refine masked_pushTasks ?_ _ (by simp [Task.isHandler]); unfold State.phaseWaitIdle; split <;> exact masked_same h rfl (by simp [hx]) rfl rfl rfl rfl
    · refine masked_pushTasks ?_ _ (by simp [Task.isHandler]); exact masked_same h rfl (by simp [hx]) rfl rfl rfl rfl
    · refine masked_pushTasks ?_ _ (by simp [Task.isHandler]); exact masked_same h rfl (by simp [hx]) rfl rfl rfl rfl
    · exact ⟨h.sv (by simp [hx]), fun hh => absurd rfl hh, rfl, rfl, [], by simp, rfl⟩
  case setpos page col =>
    unfold State.startSetpos
    split
    · exact masked_same h rfl id rfl rfl rfl rfl
    · exact masked_startXfer h _ _ _
  case glyph idx page col =>
    unfold State.startGlyph
    split
    · exact masked_same h rfl id rfl rfl rfl rfl
    · refine masked_pushTasks (masked_setRunning (masked_setRunning h _ ?_) _ ?_) _ (by simp [Task.isHandler]) <;> simp [State.setLocals]
  case glyphNext =>
    unfold State.glyphStep
    split
    · exact h
    · refine masked_pushTasks (masked_setRunning h _ ?_) _ ?_ <;> simp [Task.isHandler]
    · refine masked_pushTasks (masked_setRunning h _ ?_) _ ?_ <;> simp [Task.isHandler]
    · refine masked_pushTasks (masked_setRunning h _ ?_) _ ?_ <;> simp [Task.isHandler]
    · exact masked_setRunning h _ rfl
  case render a page col => exact masked_startRender h _ _ _
  case sendPolarity => exact masked_startXfer h _ _ _
  case renderCounter => exact masked_startRender h _ _ _
  case renderNext k =>
    unfold State.renderStep
    split
    · exact masked_pushTasks h _ (by simp [Task.isHandler])
    · exact h
  case invert => unfold State.startInvert; refine masked_pushTasks ?_ _ (by simp [Task.isHandler]); exact masked_same h rfl id rfl rfl rfl rfl
  case cntstep =>
    unfold State.startCntstep
    split
    · refine masked_pushTasks ?_ _ (by simp [Task.isHandler]); exact masked_same h rfl id rfl rfl rfl rfl
    · exact masked_same h rfl id rfl rfl rfl rfl
  all_goals simp [Task.isHandler] at ht

end Sys2Proof.Machine
end

