-- ==== Sys2Proof/Laws/Grow.lean ====
section
/-! SUPPORT. What no agent of the block writes, and what it only adds to: the parameters, the backlight line, CNT, and the records
WIRE, ACTLOG and REFUSED. -/

namespace Sys2Proof.Machine

/-- From `s` to `t` the parameters, the backlight line and CNT are as before, and the records hold what they held. -/
structure Grew (s t : State) : Prop where
  par : t.par = s.par
  bl : t.bl = s.bl
  cnt : t.cnt = s.cnt
  wire : s.wire <+: t.wire
  actlog : s.actlog <+: t.actlog
  reasons : s.reasons <+: t.reasons
  refused : s.refused = true → t.refused = true

theorem grew_refl (s : State) : Grew s s := ⟨rfl, rfl, rfl, List.prefix_rfl, List.prefix_rfl, List.prefix_rfl, id⟩

theorem grew_trans {s t u : State} (h : Grew s t) (k : Grew t u) : Grew s u :=
  ⟨k.par.trans h.par, k.bl.trans h.bl, k.cnt.trans h.cnt, h.wire.trans k.wire, h.actlog.trans k.actlog,
    h.reasons.trans k.reasons, fun e => k.refused (h.refused e)⟩

/-- Nothing of it is written. -/
theorem grew_same {s t : State} (h1 : t.par = s.par) (h2 : t.bl = s.bl) (h3 : t.cnt = s.cnt) (h4 : t.wire = s.wire)
    (h5 : t.actlog = s.actlog) (h6 : t.reasons = s.reasons) (h7 : t.refused = s.refused) : Grew s t :=
  ⟨h1, h2, h3, h4 ▸ List.prefix_rfl, h5 ▸ List.prefix_rfl, h6 ▸ List.prefix_rfl, fun e => h7.trans e⟩

theorem grew_refuse (s : State) (r : RefuseReason) : Grew s (s.refuse r) :=
  ⟨rfl, rfl, rfl, List.prefix_rfl, List.prefix_rfl, List.prefix_append _ _, fun _ => rfl⟩

/-- One event is put on the wire and nothing else of it is written. -/
theorem grew_emit {s t : State} (e : WireEvent) (h1 : t.par = s.par) (h2 : t.bl = s.bl) (h3 : t.cnt = s.cnt)
    (h4 : t.wire = s.wire ++ [e]) (h5 : t.actlog = s.actlog) (h6 : t.reasons = s.reasons) (h7 : t.refused = s.refused) :
    Grew s t :=
  ⟨h1, h2, h3, h4 ▸ List.prefix_append _ _, h5 ▸ List.prefix_rfl, h6 ▸ List.prefix_rfl, fun e => h7.trans e⟩

theorem grew_setRunning (s : State) (c : Ctx) : Grew s (s.setRunning c) :=
  grew_same (by simp) (by simp) (by simp) (by simp) (by simp) (by simp) (by simp)

theorem grew_pushTasks (s : State) (ts : List Task) : Grew s (s.pushTasks ts) := grew_setRunning s _

theorem grew_push {s t : State} (h : Grew s t) (ts : List Task) : Grew s (t.pushTasks ts) := grew_trans h (grew_pushTasks t ts)

theorem grew_setChan (s : State) (ch : Channel) (c : Chan) : Grew s (s.setChan ch c) := by
  cases ch <;> exact grew_same rfl rfl rfl rfl rfl rfl rfl

theorem grew_return (s : State) : Grew s s.returnFromHandler :=
  grew_same (by simp) (by simp) (by simp) (by simp) (by simp) (by simp) (by simp)

theorem grew_enter (s : State) (src : Source) : Grew s (s.enter src) :=
  grew_same (by simp) (by simp) (by simp) (by simp) (by simp) (by simp) (by simp)

theorem grew_serAccept (s : State) : Grew s s.serAccept := by
  unfold State.serAccept
  split <;> exact grew_same rfl rfl rfl rfl rfl rfl rfl

theorem grew_serShift (s : State) : Grew s s.serShift := by
  unfold State.serShift
  split
  · exact grew_emit _ rfl rfl rfl rfl rfl rfl rfl
  · exact grew_refl s

theorem grew_startXfer (s : State) (m : Mode) (n : Nat) (b : Bytes6) : Grew s (s.startXfer m n b) := by
  unfold State.startXfer
  split
  · exact grew_refuse s _
  · refine grew_push ?_ _
    exact grew_same rfl rfl rfl rfl rfl rfl rfl

theorem grew_framerStep (s : State) : Grew s s.framerStep := by
  unfold State.framerStep
  split
  · exact grew_refl s
  · refine grew_push (t := s.phaseSelect) ?_ _
    exact grew_emit _ rfl rfl rfl rfl rfl rfl rfl
  · refine grew_push (t := s.phaseMode) ?_ _
    exact grew_emit _ rfl rfl rfl rfl rfl rfl rfl
  · refine grew_push (t := s.phaseByte) ?_ _
    unfold State.phaseByte
    split <;> exact grew_same rfl rfl rfl rfl rfl rfl rfl
  · refine grew_push (t := s.phaseWaitIdle) ?_ _
    unfold State.phaseWaitIdle
    split <;> exact grew_same rfl rfl rfl rfl rfl rfl rfl
  · refine grew_push (t := s.phaseDrain) ?_ _
    exact grew_same rfl rfl rfl rfl rfl rfl rfl
  · refine grew_push (t := s.phaseDeselect) ?_ _
    exact grew_emit _ rfl rfl rfl rfl rfl rfl rfl
  · exact grew_same rfl rfl rfl rfl rfl rfl rfl

theorem grew_startRender (s : State) (v : Int) (page : BitVec 4) (col : BitVec 8) : Grew s (s.startRender v page col) := by
  unfold State.startRender
  split
  · exact grew_refuse s _
  · exact grew_trans (grew_setRunning s _) (grew_pushTasks _ _)

/-- Every task of every context. -/
theorem grew_perform (s : State) (t : Task) : Grew s (s.perform t) := by
  cases t <;> simp only [State.perform]
  case xfer m n b => exact grew_startXfer s m n b
  case framer => exact grew_framerStep s
  case setpos page col =>
    unfold State.startSetpos
    split
    · exact grew_refuse s _
    · exact grew_startXfer s _ _ _
  case glyph idx page col =>
    unfold State.startGlyph
    split
    · exact grew_refuse s _
    · exact grew_trans (grew_trans (grew_setRunning s _) (grew_setRunning _ _)) (grew_pushTasks _ _)
  case glyphNext =>
    unfold State.glyphStep
    split
    · exact grew_refl s
    · exact grew_trans (grew_setRunning s _) (grew_pushTasks _ _)
    · exact grew_trans (grew_setRunning s _) (grew_pushTasks _ _)
    · exact grew_trans (grew_setRunning s _) (grew_pushTasks _ _)
    · exact grew_setRunning s _
  case render v page col => exact grew_startRender s _ _ _
  case sendPolarity => exact grew_startXfer s _ _ _
  case renderCounter => exact grew_startRender s _ _ _
  case renderNext k =>
    unfold State.renderStep
    split
    · exact grew_pushTasks s _
    · exact grew_refl s
  case invert =>
    unfold State.startInvert
    refine grew_push ?_ _
    exact grew_same rfl rfl rfl rfl rfl rfl rfl
  case cntstep =>
    unfold State.startCntstep
    split
    · refine grew_push ?_ _
      exact grew_same rfl rfl rfl rfl rfl rfl rfl
    · exact grew_refuse s _
  case pinHandler ch =>
    unfold State.pinStep
    split
    · exact grew_trans (grew_setChan s ch _) (grew_pushTasks _ _)
    · refine grew_push (t := { s with actlog := s.actlog ++ [ch] }) ?_ _
      exact ⟨rfl, rfl, rfl, List.prefix_rfl, List.prefix_append _ _, List.prefix_rfl, id⟩
    · exact grew_trans (grew_setChan s ch _) (grew_return _)
  case actArm ch =>
    exact grew_trans (grew_trans (grew_trans (grew_setChan s ch _) (grew_setChan _ ch _)) (grew_setChan _ ch _))
      (grew_pushTasks _ _)
  case dlexp ch => exact grew_trans (grew_trans (grew_setChan s ch _) (grew_setChan _ ch _)) (grew_return _)
  case tmrother =>
    refine grew_trans ?_ (grew_return { s with tmrOtherPend := false })
    exact grew_same rfl rfl rfl rfl rfl rfl rfl

theorem grew_softStep (s : State) : Grew s s.softStep := by
  unfold State.softStep
  split
  · exact grew_refl s
  · exact grew_trans (grew_setRunning s _) (grew_perform _ _)

end Sys2Proof.Machine
end

