-- ==== Sys2Proof/Laws/PerInstr.lean ====
section
/-! SUPPORT. Statements made of every instruction, one lemma per constructor: the first byte of an instruction's encoding has the
bits its row of spec/opcode_table.json fixes (spec/30_encoding.md R92 to R98). -/

namespace Sys2Proof.Laws.EncodeMatchesRow

/-- The mask and the match of an instruction's row, copied from spec/opcode_table.json. -/
def row : Instr → Byte × Byte
  | .pinchg1 => (0xF, 0x0)
  | .pinchg2 => (0xF, 0x1)
  | .dlexp1 => (0xF, 0x2)
  | .dlexp2 => (0xF, 0x3)
  | .tmrother => (0xF, 0x4)
  | .tick => (0xF, 0x5)
  | .btnset _ _ => (0xF, 0x6)
  | .reserved7 => (0xF, 0x7)
  | .xfer _ _ _ => (0xF, 0x8)
  | .setpos _ _ => (0xF, 0x9)
  | .glyph _ _ _ => (0xF, 0xA)
  | .render _ _ _ => (0xF, 0xB)
  | .invert => (0xF, 0xC)
  | .cntstep => (0xF, 0xD)
  | .reservedEF _ => (0xE, 0xE)
  | .wColhi _ => (0xF0, 0x10)
  | .wCollo _ => (0xF0, 0x00)
  | .wPage _ => (0xF0, 0xB0)
  | .wInv _ => (0xFE, 0xA6)
  | .wData _ => (0x00, 0x00)

/-- The first byte of the encoding has the row's fixed bits. -/
def Statement (i : Instr) : Prop := (encodeRecord i).sel &&& (row i).1 = (row i).2

theorem pinchg1 : Statement (.pinchg1) := by simp [Statement, encodeRecord, Record.blank, row]
theorem pinchg2 : Statement (.pinchg2) := by simp [Statement, encodeRecord, Record.blank, row]
theorem dlexp1 : Statement (.dlexp1) := by simp [Statement, encodeRecord, Record.blank, row]
theorem dlexp2 : Statement (.dlexp2) := by simp [Statement, encodeRecord, Record.blank, row]
theorem tmrother : Statement (.tmrother) := by simp [Statement, encodeRecord, Record.blank, row]
theorem tick : Statement (.tick) := by simp [Statement, encodeRecord, Record.blank, row]
theorem btnset (ch : Channel) (level : Bool) : Statement (.btnset ch level) := by simp [Statement, encodeRecord, Record.blank, row]
theorem reserved7 : Statement (.reserved7) := by simp [Statement, encodeRecord, Record.blank, row]
theorem xfer (mode : Mode) (len : BitVec 3) (b : Bytes6) : Statement (.xfer mode len b) := by simp [Statement, encodeRecord, Record.blank, row]
theorem setpos (page : BitVec 4) (col : BitVec 8) : Statement (.setpos page col) := by simp [Statement, encodeRecord, Record.blank, row]
theorem glyph (idx page : BitVec 4) (col : BitVec 8) : Statement (.glyph idx page col) := by simp [Statement, encodeRecord, Record.blank, row]
theorem render (val : Int) (page : BitVec 4) (col : BitVec 8) : Statement (.render val page col) := by simp [Statement, encodeRecord, Record.blank, row]
theorem invert : Statement (.invert) := by simp [Statement, encodeRecord, Record.blank, row]
theorem cntstep : Statement (.cntstep) := by simp [Statement, encodeRecord, Record.blank, row]
theorem reservedEF (low : Bool) : Statement (.reservedEF low) := by cases low <;> simp [Statement, encodeRecord, Record.blank, row]
theorem wColhi (c : BitVec 4) : Statement (.wColhi c) := by revert c; unfold Statement; decide
theorem wCollo (c : BitVec 4) : Statement (.wCollo c) := by revert c; unfold Statement; decide
theorem wPage (p : BitVec 4) : Statement (.wPage p) := by revert p; unfold Statement; decide
theorem wInv (p : BitVec 1) : Statement (.wInv p) := by revert p; unfold Statement; decide
theorem wData (d : Byte) : Statement (.wData d) := by simp [Statement, row]

end Sys2Proof.Laws.EncodeMatchesRow
end

