-- ==== Sys2Proof/Laws/Stack.lean ====
section
/-! SUPPORT. The handler stack (spec/60_exceptions.md R234 to R238): each source stands in HS at most once and INSVC marks exactly
the sources that stand there, kept by each agent's step. -/

namespace Sys2Proof.Machine

/-- The sources that stand in HS, newest first. -/
def State.sources (s : State) : List Source := s.hs.map (·.source)

theorem inService_tmrother (s : State) : s.inService .tmrother = decide (Source.tmrother ∈ s.sources) := by
  rw [Bool.eq_iff_iff]
  simp [State.inService, State.sources]

/-- What the stack invariant reads of the state. -/
theorem stackInv_congr {s t : State} (h0 : t.sources = s.sources) (h1 : ∀ src, t.inService src = s.inService src)
    (h : s.stackInv) : t.stackInv := by
  unfold State.stackInv
  rw [show t.hs.map (·.source) = s.hs.map (·.source) from h0]
  exact ⟨h.1, fun src => by rw [h1]; exact h.2 src⟩

/-- A state that differs in none of the four marks and in no source. -/
theorem stackInv_same {s t : State} (h0 : t.sources = s.sources) (h1 : t.ch1.insvcPin = s.ch1.insvcPin)
    (h2 : t.ch2.insvcPin = s.ch2.insvcPin) (h3 : t.ch1.insvcDl = s.ch1.insvcDl) (h4 : t.ch2.insvcDl = s.ch2.insvcDl)
    (h : s.stackInv) : t.stackInv := by
  refine stackInv_congr h0 (fun src => ?_) h
  cases src
  case tmrother => rw [inService_tmrother, inService_tmrother, h0]
  all_goals assumption

theorem sources_setRunning (s : State) (c : Ctx) : (s.setRunning c).sources = s.sources := setRunning_sources s c

theorem stackInv_setRunning {s : State} (h : s.stackInv) (c : Ctx) : (s.setRunning c).stackInv :=
  stackInv_congr (sources_setRunning s c) (by simp) h

theorem stackInv_pushTasks {s : State} (h : s.stackInv) (ts : List Task) : (s.pushTasks ts).stackInv := stackInv_setRunning h _

theorem stackInv_setChan {s : State} (h : s.stackInv) (ch : Channel) {c : Chan} (h1 : c.insvcPin = (s.chan ch).insvcPin)
    (h2 : c.insvcDl = (s.chan ch).insvcDl) : (s.setChan ch c).stackInv := by
  cases ch
  · exact stackInv_same (s := s) rfl h1 rfl h2 rfl h
  · exact stackInv_same (s := s) rfl rfl h1 rfl h2 h

theorem inService_setInService (s : State) (src src' : Source) (v : Bool) (h : src ≠ .tmrother) :
    (s.setInService src v).inService src' = if src' = src then v else s.inService src' := by
  cases src <;> cases src' <;> first | rfl | exact absurd rfl h

theorem stackInv_enter {s : State} (h : s.stackInv) {src : Source} (hn : s.inService src = false) :
    (s.enter src).stackInv := by
  have hmem : src ∉ s.hs.map (·.source) := by
    intro hm
    have := (h.2 src).2 hm
    simp [hn] at this
  have hsrc : (s.enter src).hs.map (·.source) = src :: s.hs.map (·.source) := by simp [State.enter]
  refine ⟨by rw [hsrc]; exact List.nodup_cons.2 ⟨hmem, h.1⟩, fun src' => ?_⟩
  rw [hsrc, List.mem_cons, ← h.2 src']
  by_cases he : src' = src
  · subst he
    cases src' <;> simp [State.inService, State.enter, State.setInService]
  · cases src <;> cases src' <;>
      first
        | exact absurd rfl he
        | simp [State.inService, State.enter, State.setInService]

theorem stackInv_return {s : State} (h : s.stackInv) : s.returnFromHandler.stackInv := by
  cases hhs : s.hs with
  | nil => simpa [State.returnFromHandler, hhs] using h
  | cons r rest =>
    obtain ⟨hnd, hin⟩ := h
    simp only [hhs, List.map_cons, List.nodup_cons] at hnd hin
    have hsrc : s.returnFromHandler.hs = rest := by rw [returnFromHandler_hs, hhs]; rfl
    refine ⟨by rw [hsrc]; exact hnd.2, fun src => ?_⟩
    rw [hsrc]
    by_cases ht : src = .tmrother
    · subst ht
      rw [inService_tmrother]
      simp [State.sources, hsrc]
    · have key : s.returnFromHandler.inService src = if src = r.source then false else s.inService src := by
        simp only [State.returnFromHandler, hhs]
        cases hr : r.source <;> cases src <;>
          simp_all [State.inService, State.setInService]
      rw [key]
      by_cases he : src = r.source
      · subst he
        simpa using hnd.1
      · rw [if_neg he, hin src]
        simp [he]

theorem stackInv_startXfer {s : State} (h : s.stackInv) (m : Mode) (n : Nat) (b : Bytes6) : (s.startXfer m n b).stackInv := by
  unfold State.startXfer
  split
  · exact h
  · refine stackInv_pushTasks ?_ _; exact stackInv_same rfl rfl rfl rfl rfl h

theorem stackInv_startRender {s : State} (h : s.stackInv) (v : Int) (page : BitVec 4) (col : BitVec 8) :
    (s.startRender v page col).stackInv := by
  unfold State.startRender
  split
  · exact h
  · exact stackInv_pushTasks (stackInv_setRunning h _) _

theorem stackInv_perform {s : State} (h : s.stackInv) (t : Task) : (s.perform t).stackInv := by
  cases t <;> simp only [State.perform]
  case xfer m n b => exact stackInv_startXfer h m n b
  case framer =>
    unfold State.framerStep
    split
    · exact h
    · refine stackInv_pushTasks ?_ _; exact stackInv_same rfl rfl rfl rfl rfl h
    · refine stackInv_pushTasks ?_ _; exact stackInv_same rfl rfl rfl rfl rfl h
    · refine stackInv_pushTasks ?_ _
      unfold State.phaseByte
      split
      · exact stackInv_same rfl rfl rfl rfl rfl h
      · exact h
    · refine stackInv_pushTasks ?_ _
      unfold State.phaseWaitIdle
      split
      · exact h
      · exact stackInv_same rfl rfl rfl rfl rfl h
    · refine stackInv_pushTasks ?_ _; exact stackInv_same rfl rfl rfl rfl rfl h
    · refine stackInv_pushTasks ?_ _; exact stackInv_same rfl rfl rfl rfl rfl h
    · exact stackInv_same rfl rfl rfl rfl rfl h
  case setpos page col =>
    unfold State.startSetpos
    split
    · exact h
    · exact stackInv_startXfer h _ _ _
  case glyph idx page col =>
    unfold State.startGlyph
    split
    · exact h
    · exact stackInv_pushTasks (stackInv_setRunning (stackInv_setRunning h _) _) _
  case glyphNext =>
    unfold State.glyphStep
    split
    · exact h
    · exact stackInv_pushTasks (stackInv_setRunning h _) _
    · exact stackInv_pushTasks (stackInv_setRunning h _) _
    · exact stackInv_pushTasks (stackInv_setRunning h _) _
    · exact stackInv_setRunning h _
  case render v page col => exact stackInv_startRender h _ _ _
  case sendPolarity => exact stackInv_startXfer h _ _ _
  case renderCounter => exact stackInv_startRender h _ _ _
  case renderNext k =>
    unfold State.renderStep
    split
    · exact stackInv_pushTasks h _
    · exact h
  case invert =>
    refine stackInv_pushTasks ?_ _; exact stackInv_same rfl rfl rfl rfl rfl h
  case cntstep =>
    unfold State.startCntstep
    split
    · refine stackInv_pushTasks ?_ _; exact stackInv_same rfl rfl rfl rfl rfl h
    · exact h
  case pinHandler ch =>
    unfold State.pinStep
    split
    · refine stackInv_pushTasks ?_ _; exact stackInv_setChan h ch rfl rfl
    · refine stackInv_pushTasks ?_ _; exact stackInv_same rfl rfl rfl rfl rfl h
    · exact stackInv_return (stackInv_setChan h ch rfl rfl)
  case actArm ch =>
    refine stackInv_pushTasks ?_ _
    unfold State.suppressAndArm State.arm
    simp only [setChan_setChan, chan_setChan_same]
    exact stackInv_setChan h ch rfl rfl
  case dlexp ch =>
    unfold State.deadlineExpired State.disarm
    simp only [setChan_setChan, chan_setChan_same]
    exact stackInv_return (stackInv_setChan h ch rfl rfl)
  case tmrother => exact stackInv_return (stackInv_same rfl rfl rfl rfl rfl h)

theorem stackInv_softStep {s : State} (h : s.stackInv) : s.softStep.stackInv := by
  unfold State.softStep
  split
  · exact h
  · exact stackInv_perform (stackInv_setRunning h _) _

end Sys2Proof.Machine
end

