-- ==== Sys2Proof/Tests/Slice0.lean ====
section
/-! SUPPORT. The model's own tests. Expected values are the spec's vectors (spec/95_test_vectors.md, named in each comment) or are
worked by hand from the rule named. After them one witness per statement with hypotheses: a state and operands that meet them. -/

namespace Sys2Proof.Tests

open Sys2Proof.Machine

/-! ## The vectors' parameters and start states -/

/-- The parameters of the vectors: W = 16, FIXED_DELAY = 50, V = 16, step -591, page 2, column 40, FONT(i, k) = 16*i + k. -/
def par : Params :=
  { cntWidth := 16
    fixedDelay := 50
    irqEntryClearsGie := false
    irqRank := { pinchg1 := 5, pinchg2 := 4, dlexp1 := 3, dlexp2 := 2, tmrother := 1 }
    cdLevelCommand := false
    serBitOrder := .msbFirst
    serLive := true
    font := (List.range 13).flatMap (fun i => (List.range 12).map (fun k => BitVec.ofNat 8 (16 * i + k)))
    valWidth := some 16
    counterInit := 3184
    counterStep := -591
    renderPage := 2
    renderCol := 40 }

/-- Zeros for what the reset table leaves unspecified, in range. -/
def zeros : ResetDraw :=
  { dlExp1 := 0, dlExp2 := 0, cnt := 0, savedGie := false, cd := .data, xmode := .data, xlen := 1, xidx := 0
    xbuf := oneByte 0, txbuf := 0, shreg := 0, rxbuf := 0, sclk := false, mosi := false, bl := false
    locals := { bidx := 0, bpage := 0, bcol := 0, rsign := 0, rbuf := [], rpage := 0, rcol := 0 } }

/-- Right after a reset with the vectors' parameters. -/
def afterReset : State := State.resetWith par zeros true true [] 1

/-- BOOTED: after reset and boot, CNT = 100. -/
def booted : State := { afterReset with gie := true, cnt := 100 }

/-- The next state, where there is one. -/
def next? (o : Host.Outcome State Fault Refusal) : Option State :=
  match o with
  | .next s => some s
  | .fault _ => none
  | .refused _ => none

/-- One register of the next state. -/
def after {α : Type} (i : Instr) (s : State) (f : State → α) : Option α := (next? (exec i s)).map f

/-- A refused request: the reasons, and whether REFUSED is set. -/
def refusal (i : Instr) (s : State) : Option (List RefuseReason × Bool) := after i s (fun t => (t.reasons, t.refused))

def bytes3 (a b c : Byte) : Bytes6 := { b0 := a, b1 := b, b2 := c, b3 := 0, b4 := 0, b5 := 0 }

/-! ## WellFormed refuses each ill-formed form -/

theorem test_wellFormed_refuses_xfer_0 : (Instr.xfer .data 0 (oneByte 0)).wellFormed = false := by decide
theorem test_wellFormed_refuses_xfer_7 : (Instr.xfer .data 7 (oneByte 0)).wellFormed = false := by decide
theorem test_wellFormed_takes_xfer_6 : (Instr.xfer .data 6 (oneByte 0)).wellFormed = true := by decide
theorem test_wellFormed_refuses_setpos_page_8 : (Instr.setpos 8 0).wellFormed = false := by decide
theorem test_wellFormed_refuses_setpos_col_132 : (Instr.setpos 0 132).wellFormed = false := by decide
theorem test_wellFormed_takes_setpos_7_131 : (Instr.setpos 7 131).wellFormed = true := by decide
theorem test_wellFormed_refuses_glyph_13 : (Instr.glyph 13 0 0).wellFormed = false := by decide
theorem test_wellFormed_refuses_glyph_page_7 : (Instr.glyph 0 7 0).wellFormed = false := by decide
theorem test_wellFormed_refuses_glyph_col_132 : (Instr.glyph 0 0 132).wellFormed = false := by decide
theorem test_wellFormed_refuses_render_page_7 : (Instr.render 0 7 0).wellFormed = false := by decide
theorem test_wellFormed_refuses_render_col_92 : (Instr.render 0 0 92).wellFormed = false := by decide
theorem test_wellFormed_refuses_reserved : Instr.reserved7.wellFormed = false ∧ (Instr.reservedEF true).wellFormed = false := by
  decide

/-! ## Decoding, one word per constructor (V-ENC-1, V-ENC-2, S9). The selector is byte 0; the fields stand where
notes/assumptions/6.md puts them. -/

theorem test_decode_events :
    decode [0x0, 0, 0, 0, 0, 0, 0, 0, 0, 0, 0] = .instr .pinchg1 ∧ decode [0x1, 0, 0, 0, 0, 0, 0, 0, 0, 0, 0] = .instr .pinchg2 ∧
    decode [0x2, 0, 0, 0, 0, 0, 0, 0, 0, 0, 0] = .instr .dlexp1 ∧ decode [0x3, 0, 0, 0, 0, 0, 0, 0, 0, 0, 0] = .instr .dlexp2 ∧
    decode [0x4, 0, 0, 0, 0, 0, 0, 0, 0, 0, 0] = .instr .tmrother ∧ decode [0x5, 0, 0, 0, 0, 0, 0, 0, 0, 0, 0] = .instr .tick := by
  decide

-- CHSEL 1 is channel 2, LEVEL 1 is high.
theorem test_decode_btnset :
    decode [0x6, 0, 1, 0, 0, 0, 0, 0, 0, 0, 0] = .instr (.btnset .two false) ∧
    decode [0x6, 0, 2, 0, 0, 0, 0, 0, 0, 0, 0] = .instr (.btnset .one true) := by decide

theorem test_decode_reserved :
    decode [0x7, 0, 0, 0, 0, 0, 0, 0, 0, 0, 0] = .instr .reserved7 ∧
    decode [0xE, 0, 0, 0, 0, 0, 0, 0, 0, 0, 0] = .instr (.reservedEF false) ∧
    decode [0xF, 0, 0, 0, 0, 0, 0, 0, 0, 0, 0] = .instr (.reservedEF true) := by decide

-- MODE 0, LEN 3 (011 at bits 5:3), then MODE 1, LEN 3.
theorem test_decode_xfer :
    decode [0x8, 0, 0x18, 0x18, 0x03, 0xB3, 0, 0, 0, 0, 0] = .instr (.xfer .command 3 (bytes3 0x18 0x03 0xB3)) ∧
    decode [0x8, 0, 0x1C, 0xFF, 0x81, 0xFF, 0, 0, 0, 0, 0] = .instr (.xfer .data 3 (bytes3 0xFF 0x81 0xFF)) := by decide

theorem test_decode_setpos : decode [0x9, 0, 0, 0, 0, 0, 0, 0, 0, 0x03, 0x83] = .instr (.setpos 3 131) := by decide

theorem test_decode_glyph : decode [0xA, 0, 0, 0, 0, 0, 0, 0, 0, 0xA2, 0x28] = .instr (.glyph 10 2 40) := by decide

-- VAL = 0xFFFB for V = 16.
theorem test_decode_render :
    decode [0xB, 0, 0, 0, 0, 0, 0, 0, 0, 0x02, 0x28, 0xFB, 0xFF] = .instr (.render (-5) 2 40) := by decide

theorem test_decode_actions :
    decode [0xC, 0, 0, 0, 0, 0, 0, 0, 0, 0, 0] = .instr .invert ∧ decode [0xD, 0, 0, 0, 0, 0, 0, 0, 0, 0, 0] = .instr .cntstep := by
  decide

theorem test_decode_wire_bytes :
    decode [0x18, 1, 0, 0, 0, 0, 0, 0, 0, 0, 0] = .instr (.wColhi 8) ∧ decode [0x03, 1, 0, 0, 0, 0, 0, 0, 0, 0, 0] = .instr (.wCollo 3) ∧
    decode [0xB3, 1, 0, 0, 0, 0, 0, 0, 0, 0, 0] = .instr (.wPage 3) ∧ decode [0xA7, 1, 0, 0, 0, 0, 0, 0, 0, 0, 0] = .instr (.wInv 1) ∧
    decode [0xA6, 1, 0, 0, 0, 0, 0, 0, 0, 0, 0] = .instr (.wInv 0) ∧ decode [0xD5, 2, 0, 0, 0, 0, 0, 0, 0, 0, 0] = .instr (.wData 0xD5) := by
  decide

-- R102: 0x2_ .. 0x9_, 0xA0 .. 0xA5, 0xA8 .. 0xAF, 0xC_ .. 0xF_ have no command format.
theorem test_decode_rejects_other_command_bytes :
    decode [0x20, 1, 0, 0, 0, 0, 0, 0, 0, 0, 0] = .reject (.noWireFormat 0x20) ∧
    decode [0xA5, 1, 0, 0, 0, 0, 0, 0, 0, 0, 0] = .reject (.noWireFormat 0xA5) ∧
    decode [0xA8, 1, 0, 0, 0, 0, 0, 0, 0, 0, 0] = .reject (.noWireFormat 0xA8) ∧
    decode [0xC0, 1, 0, 0, 0, 0, 0, 0, 0, 0, 0] = .reject (.noWireFormat 0xC0) := by decide

theorem test_decode_rejects_no_record :
    decode [0x5] = .reject .truncated ∧ decode [0x5, 9, 0, 0, 0, 0, 0, 0, 0, 0, 0] = .reject (.unknownSpace 9) := by decide

theorem test_table_words : decodeTableWord 8 0x05 = some .tick ∧ decodeTableWord 8 0xB7 = some (.wPage 7) := by decide

theorem test_fetch_word_runs : (next? (step (booted.withFetchWord 8 0x05))).map (·.cnt) = some 101 := by decide

/-! ## Events -/

/-- V-TDS-2 row 1: the wrap, and the match on the wrapped value. -/
theorem test_tick_wraps_and_matches :
    after .tick { booted with cnt := 0xFFFF, ch1 := { booted.ch1 with dlValid := true } }
      (fun t => (t.cnt, t.ch1.cmpIfg, t.ch2.cmpIfg)) = some (0, true, false) := by decide

/-- V-TDS-2 row 4: the compare is made on the incremented value. -/
theorem test_tick_compares_after_the_increment :
    after .tick { booted with cnt := 0x149, ch1 := { booted.ch1 with dlValid := true, dlExp := 0x149 } }
      (fun t => (t.cnt, t.ch1.cmpIfg)) = some (0x14A, false) := by decide

/-- V-DBN-5 rows 1 and 2. -/
theorem test_btnset_watched_fall :
    after (.btnset .one false) booted (fun t => (t.ch1.btn, t.ch1.pinIfg)) = some (false, true) := by decide

/-- V-DBN-5 row 7: a pin change never clears the flag. -/
theorem test_btnset_keeps_the_flag :
    after (.btnset .one true) { booted with ch1 := { booted.ch1 with btn := false, pinIfg := true } }
      (fun t => (t.ch1.btn, t.ch1.pinIfg)) = some (true, true) := by decide

/-- V-DBN-1 row 1. -/
theorem test_pinchg2_press :
    after .pinchg2 booted (fun t => (t.actlog, t.wire, t.pol)) = some ([.two], frame .command [0xA7], 1) ∧
    after .pinchg2 booted (·.ch2) =
      some { booted.ch2 with supp := true, edgeSel := .release, dlValid := true, dlExp := 150, cmpIe := true } := by decide +kernel

/-- V-DBN-1 row 3: suppression is tested first. -/
theorem test_pinchg2_suppressed :
    after .pinchg2 { booted with ch2 := { booted.ch2 with supp := true, dlValid := true, dlExp := 150, cmpIe := true } }
      (fun t => (t.actlog, t.wire, t.ch2.supp, t.ch2.edgeSel, t.ch2.dlExp)) = some ([], [], true, .release, 150) := by decide

/-- V-DBN-1 row 2, on channel 1. -/
theorem test_pinchg1_release :
    after .pinchg1 { booted with ch1 := { booted.ch1 with edgeSel := .release, pinIfg := true } }
      (fun t => (t.actlog, t.wire, t.ch1.supp, t.ch1.edgeSel, t.ch1.pinIfg)) = some ([], [], false, .press, false) := by decide

/-- P2 row 2: 3184 to 2593, 24 frames, DL_EXP across the wrap. -/
theorem test_pinchg1_press :
    after .pinchg1 { booted with cnt := 0xFFE0 }
      (fun t => (t.counter, t.actlog, t.ch1.dlExp, t.wire.length)) = some (2593, [.one], 0x12, 180) := by
  decide +kernel

/-- V-DBN-4 row 1. -/
theorem test_dlexp1 :
    after .dlexp1 { booted with ch1 := { booted.ch1 with supp := true, dlValid := true, cmpIe := true, cmpIfg := true, edgeSel := .release } }
      (fun t => t.ch1) = some { booted.ch1 with edgeSel := .release } := by decide

/-- V-DBN-4 row 3: the other channel keeps its deadline. -/
theorem test_dlexp2 :
    after .dlexp2
      { booted with
        ch1 := { booted.ch1 with supp := true, dlValid := true, cmpIe := true }
        ch2 := { booted.ch2 with supp := true, dlValid := true, cmpIe := true } }
      (fun t => (t.ch1.supp, t.ch1.dlValid, t.ch2.supp, t.ch2.dlValid)) = some (true, true, false, false) := by decide

/-- V-TDS-6. -/
theorem test_tmrother :
    after .tmrother { booted with tmrOtherPend := true } (fun t => { t with draws := 0 }) = some { booted with draws := 0 } := by
  decide +kernel

/-- V-ENC-1, rows SEL 7, 0xE and 0xF. -/
theorem test_reserved_selectors :
    refusal .reserved7 booted = some ([.selector], true) ∧ refusal (.reservedEF false) booted = some ([.selector], true) ∧
    refusal (.reservedEF true) booted = some ([.selector], true) := by decide

/-! ## Operations -/

/-- V-XFER-1, the state at its end. -/
theorem test_xfer_command :
    after (.xfer .command 3 (bytes3 0x18 0x03 0xB3)) booted
      (fun t => (t.wire, t.gie, t.cs, t.cd)) = some (frame .command [0x18, 0x03, 0xB3], true, .deasserted, .command) ∧
    after (.xfer .command 3 (bytes3 0x18 0x03 0xB3)) booted (fun t => (t.savedGie, t.txrdy, t.shbusy, t.rxfull, t.xidx)) =
      some (true, true, false, false, 3) := by decide +kernel

/-- V-XFER-4: no byte, seven bytes, and any XFER while the bus is busy. -/
theorem test_xfer_refusals :
    refusal (.xfer .data 0 (oneByte 1)) booted = some ([.xferLength], true) ∧
    refusal (.xfer .data 7 (oneByte 1)) booted = some ([.xferLength], true) ∧
    refusal (.xfer .data 1 (oneByte 1)) { booted with xph := .byte } = some ([.busBusy], true) ∧
    refusal (.xfer .data 0 (oneByte 1)) { booted with xph := .byte } = some ([.busBusy], true) := by decide

/-- V-POS-1 rows 2 and 8. -/
theorem test_setpos :
    after (.setpos 3 131) booted (·.wire) = some (frame .command [0x18, 0x03, 0xB3]) ∧
    after (.setpos 1 127) booted (·.wire) = some (frame .command [0x17, 0x0F, 0xB1]) := by decide +kernel

/-- V-POS-1 rows 12 to 14. -/
theorem test_setpos_refusals :
    refusal (.setpos 3 132) booted = some ([.columnRange], true) ∧ refusal (.setpos 8 0) booted = some ([.pageRange], true) ∧
    refusal (.setpos 15 255) booted = some ([.columnRange], true) := by decide

/-- V-BLT-1 row 1. -/
theorem test_glyph :
    after (.glyph 10 2 40) booted (·.wire) =
      some
        (frame .command [0x12, 0x08, 0xB3] ++ frame .data [0xA0, 0xA1, 0xA2, 0xA3, 0xA4, 0xA5] ++
          frame .command [0x12, 0x08, 0xB2] ++ frame .data [0xA6, 0xA7, 0xA8, 0xA9, 0xAA, 0xAB]) := by decide +kernel

/-- V-BLT-2 rows 1, 3, 4, 5 and 6. -/
theorem test_glyph_refusals :
    refusal (.glyph 13 0 0) booted = some ([.glyphIndex], true) ∧ refusal (.glyph 0 7 0) booted = some ([.pageRange], true) ∧
    refusal (.glyph 0 0 132) booted = some ([.columnRange], true) ∧ refusal (.glyph 13 7 132) booted = some ([.glyphIndex], true) ∧
    refusal (.glyph 0 7 132) booted = some ([.pageRange], true) := by decide

/-- V-ACT-2: the glyph indices of RENDER, left to right. -/
theorem test_render_indices :
    renderIndices 3184 = [10, 12, 3, 1, 8, 4] ∧ renderIndices (-5) = [11, 12, 12, 12, 12, 5] ∧ renderIndices 0 = [10, 12, 12, 12, 12, 0] ∧
    renderIndices 100 = [10, 12, 12, 1, 0, 0] ∧ renderIndices 12345 = [10, 1, 2, 3, 4, 5] ∧
    renderIndices (-32767) = [11, 3, 2, 7, 6, 7] ∧ renderIndices 123456 = [10, 2, 3, 4, 5, 6] := by decide

/-- V-ACT-3: the frames of the first and of the last glyph, and the number of events. -/
theorem test_render :
    (after (.render (-5) 2 40) booted (·.wire)).map (fun w => (w.length, w.take 30, w.drop 150)) =
      some
        (180,
          frame .command [0x12, 0x08, 0xB3] ++ frame .data [0xB0, 0xB1, 0xB2, 0xB3, 0xB4, 0xB5] ++
            frame .command [0x12, 0x08, 0xB2] ++ frame .data [0xB6, 0xB7, 0xB8, 0xB9, 0xBA, 0xBB],
          frame .command [0x15, 0x00, 0xB3] ++ frame .data [0x50, 0x51, 0x52, 0x53, 0x54, 0x55] ++
            frame .command [0x15, 0x00, 0xB2] ++ frame .data [0x56, 0x57, 0x58, 0x59, 0x5A, 0x5B]) := by decide +kernel

/-- V-ACT-4 rows 1 to 4. -/
theorem test_render_refusals :
    refusal (.render 1 7 0) booted = some ([.pageRange], true) ∧ refusal (.render 1 0 92) booted = some ([.columnRange], true) ∧
    refusal (.render 1 7 92) booted = some ([.pageRange], true) ∧
    refusal (.render (-32768) 0 0) booted = some ([.valueRange], true) := by decide

/-- V-ACT-1. -/
theorem test_invert :
    after .invert booted (fun t => (t.pol, t.wire)) = some (1, frame .command [0xA7]) ∧
    after .invert { booted with pol := 1 } (fun t => (t.pol, t.wire)) = some (0, frame .command [0xA6]) := by decide +kernel

/-- R46, R210: MAIN has toggled POL to 1 and another context's INVERT has toggled it back; MAIN's transfer sends 0xA6. -/
theorem test_invert_sends_the_bit_as_it_stands :
    (booted.pushTasks [.invert]).softStep.running.work = [.sendPolarity] ∧
    (State.softStep { (booted.pushTasks [.invert]).softStep with pol := 0 }).xbuf.b0 = 0xA6 := by decide

/-- R212, R105: CNTSTEP's RENDER draws COUNTER as it stands, here 7 (digit buffer of four blanks and 7). -/
theorem test_cntstep_renders_the_counter_as_it_stands :
    (booted.pushTasks [.cntstep]).softStep.running.work = [.renderCounter] ∧
    (State.softStep { (booted.pushTasks [.cntstep]).softStep with counter := 7 }).running.loc.rbuf = [12, 12, 12, 12, 7] := by decide

/-- V-ACT-5 row 6. -/
theorem test_cntstep :
    after .cntstep { booted with counter := -32176 } (fun t => (t.counter, t.wire.length, t.refused)) = some (-32767, 180, false) := by
  decide +kernel

/-- V-ACT-5 rows 4 and 5. -/
theorem test_cntstep_refused :
    refusal .cntstep { booted with counter := -32177 } = some ([.valueRange], true) ∧
    refusal .cntstep { booted with counter := 32000, par := { par with counterStep := 1000 } } = some ([.valueRange], true) ∧
    after .cntstep { booted with counter := -32177 } (·.counter) = some (-32177) := by decide

/-! ## Wire bytes (V-ENC-2; R92 to R96, R105) -/

theorem test_wColhi : after (.wColhi 8) booted (·.wire) = some (frame .command [0x18]) := by decide +kernel
theorem test_wCollo : after (.wCollo 3) booted (·.wire) = some (frame .command [0x03]) := by decide +kernel
theorem test_wPage : after (.wPage 3) booted (·.wire) = some (frame .command [0xB3]) := by decide +kernel
theorem test_wInv : after (.wInv 1) booted (·.wire) = some (frame .command [0xA7]) := by decide +kernel
theorem test_wData : after (.wData 0xD5) booted (·.wire) = some (frame .data [0xD5]) := by decide +kernel

/-! ## Delivery and reset -/

/-- V-IRQ-1: in service, pending and GIE = 1, and not deliverable. -/
theorem test_no_reentry :
    State.deliverable .pinchg2 (State.enter .pinchg2 { booted with ch2 := { booted.ch2 with pinIfg := true } }) = false ∧
    (State.enter .pinchg2 { booted with ch2 := { booted.ch2 with pinIfg := true } }).ch2.pinIfg = true := by decide

/-- V-IRQ-3: GIE and HS after the entry step, for both parameter values. -/
theorem test_entry :
    (State.enter .pinchg2 booted).gie = true ∧
    (State.enter .pinchg2 { booted with par := { par with irqEntryClearsGie := true } }).gie = false ∧
    (State.enter .pinchg2 booted).hs.map (fun r => (r.source, r.gieAtEntry)) = [(.pinchg2, true)] := by decide

/-- V-RST-1, last sentence. -/
theorem test_reset_then_press :
    after (.btnset .one false) afterReset (fun t => (t.ch1.pinIfg, t.deliverable .pinchg1)) = some (true, false) := by decide

/-! ## Witnesses: states and operands that meet the hypotheses of the statements -/

/-- Channel 2's handler entered, with IRQ_ENTRY_CLEARS_GIE true. -/
def entered : State := State.enter .pinchg2 { booted with par := { par with irqEntryClearsGie := true } }

/-- A transfer of MAIN in flight in phase X_BYTE: two of three bytes loaded, the first on the wire, the second in the shifter. -/
def inByte : State :=
  { booted with
    gie := false
    savedGie := true
    cs := .asserted
    cd := .command
    xph := .byte
    xmode := .command
    xlen := 3
    xidx := 2
    xbuf := bytes3 0x18 0x03 0xB3
    shreg := 0x03
    shbusy := true
    wire := [.cs .asserted, .cd .command, .byte .command 0x18]
    main := { booted.main with work := [.framer] } }

/-- The same transfer in another phase, without regard to its bytes. -/
def inPhase (x : XPhase) : State := { inByte with xph := x, shbusy := false }

/-- A press of channel 2 being handled, before the handler's step of the given phase. -/
def handling (w : List Task) (d : DPhase) : State :=
  let e := State.enter .pinchg2 booted
  { e with ch2 := { e.ch2 with dph := d }, hs := e.hs.map (fun r => { r with ctx := { r.ctx with work := w } }) }

def with1 (c : Chan → Chan) (s : State) : State := { s with ch1 := c s.ch1 }
def with2 (c : Chan → Chan) (s : State) : State := { s with ch2 := c s.ch2 }

/-- One compare flag set and enabled. -/
def due (c : Chan) : Chan := { c with supp := true, dlValid := true, cmpIe := true, cmpIfg := true }

theorem witness_ResetForgetsTheRun :
    ∃ s t : State, s ≠ t ∧ t.par = s.par ∧ t.ch1.btn = s.ch1.btn ∧ t.ch2.btn = s.ch2.btn ∧ t.port = s.port ∧ t.draws = s.draws :=
  ⟨booted, { booted with gie := false }, by decide +kernel, rfl, rfl, rfl, rfl, rfl⟩

theorem witness_StepKeepsWholeFrames :
    (inByte.frameInv ∧ ∃ s', step inByte = .next s') ∧ (booted.frameInv ∧ ∃ s', step booted = .next s') :=
  ⟨⟨⟨⟨1, by decide, by decide, by decide, by decide⟩, rfl, rfl, by unfold State.lenLegal; decide, by decide⟩, _, rfl⟩,
    ⟨rfl, rfl, rfl⟩, _, rfl⟩

theorem witness_StepKeepsChannelsArmedTogether :
    ((with2 due booted).chanInv ∧ ∃ s', step (with2 due booted) = .next s') ∧
    ((handling [.pinHandler .two] .act).chanInv ∧ ∃ s', step (handling [.pinHandler .two] .act) = .next s') :=
  ⟨⟨⟨⟨rfl, rfl, by decide, by decide⟩, ⟨rfl, rfl, by decide, by decide⟩⟩, _, rfl⟩,
    ⟨⟨rfl, rfl, by decide, by decide⟩, ⟨rfl, rfl, by decide, by decide⟩⟩, _, rfl⟩

theorem witness_StepKeepsSourcesOnceInTheStack :
    (entered.stackInv ∧ ∃ s', step entered = .next s') ∧ (booted.stackInv ∧ ∃ s', step booted = .next s') := by
  refine ⟨⟨⟨by decide, fun src => ?_⟩, _, rfl⟩, ⟨by decide, fun src => ?_⟩, _, rfl⟩ <;> cases src <;> decide

theorem entered_maskInv : entered.maskInv :=
  ⟨fun h => absurd rfl h, by decide, by
    intro r hr
    have : r = entered.hs.head (by decide) := by simpa [entered, State.enter, booted, afterReset, State.resetWith, State.setInService] using hr
    subst this
    unfold handlerStepsLast
    decide⟩

theorem witness_StepKeepsTransfersMasked :
    (inByte.maskInv ∧ ∃ s', step inByte = .next s') ∧ (entered.maskInv ∧ ∃ s', step entered = .next s') :=
  ⟨⟨⟨fun _ => by decide, by decide, by intro r hr; cases hr⟩, _, rfl⟩, entered_maskInv, _, rfl⟩

/-- At the ends of the ranges: CNT at its greatest value, COUNTER at its least. -/
theorem witness_StepKeepsRegisterRanges :
    State.rangeInv { booted with cnt := 65535, counter := -32768 } ∧
      ∃ s', step { booted with cnt := 65535, counter := -32768 } = .next s' := by
  unfold State.rangeInv
  exact ⟨by decide +kernel, _, rfl⟩

/-- In the handler, and before its entry. -/
theorem witness_HandlersNeverNestWhenEntryClearsGie :
    (entered.par.irqEntryClearsGie = true ∧ entered.maskInv ∧ entered.neverNested ∧
      (∀ r, entered.port.head? ≠ some (.request r)) ∧ ∃ s', step entered = .next s') ∧
    State.neverNested { booted with par := { par with irqEntryClearsGie := true } } :=
  ⟨⟨rfl, entered_maskInv, .inr ⟨_, rfl, rfl, rfl, fun h => absurd rfl h⟩, fun r h => (by cases h), _, rfl⟩, .inl rfl⟩

/-- One move for each clause. -/
theorem witness_StepRunsTheDecodedInstruction :
    decode (encode .tick) = .instr .tick ∧ (decode (encode .invert) = .instr .invert ∧ opTask .invert = some .invert) ∧
    (decode (encode .pinchg1) = .instr .pinchg1 ∧ eventSource .pinchg1 = some .pinchg1) ∧
    (opTask .tick = none ∧ eventSource .tick = none) ∧ decodeTableWord 8 0x0C = some .invert ∧ decode [] = .reject .truncated ∧
    booted.port = [] ∧
    ∀ m ∈ [Move.run, .serAccept, .serShift, .deliver .pinchg1, .reset], ({ booted with port := [m] } : State).port = m :: [] := by
  decide

/-- MAIN idle; MAIN in an operation; in a handler. -/
theorem witness_EnvironmentWritesGieTimerRequestAndBacklight :
    (let s := { booted with port := [.setGie false] }
     s.port = .setGie false :: [] ∧ s.hs = [] ∧ s.main.work = []) ∧
    (let s := { inByte with port := [.setGie true] }
     s.port = .setGie true :: [] ∧ s.main.work ≠ []) ∧
    (let s := { entered with port := [.setGie true] }
     s.port = .setGie true :: [] ∧ s.hs ≠ []) ∧
    ({ booted with port := [.tmrOtherRequest] } : State).port = .tmrOtherRequest :: [] ∧
    ({ booted with port := [.setBacklight true] } : State).port = .setBacklight true :: [] := by decide

/-- CNT before the wrap with the least and the greatest delay, and a counter of one bit. -/
theorem witness_ArmedDeadlineMatchesOnTheDelayedTick :
    (let s := { booted with cnt := 65535, par := { par with fixedDelay := 1 } }
     s.cnt < 2 ^ s.par.cntWidth ∧ 1 ≤ s.par.fixedDelay ∧ s.par.fixedDelay < 2 ^ s.par.cntWidth) ∧
    (let s := { booted with cnt := 65535, par := { par with fixedDelay := 65535 } }
     s.cnt < 2 ^ s.par.cntWidth ∧ 1 ≤ s.par.fixedDelay ∧ s.par.fixedDelay < 2 ^ s.par.cntWidth) ∧
    (let s := { booted with cnt := 0, par := { par with cntWidth := 1, fixedDelay := 1 } }
     s.cnt < 2 ^ s.par.cntWidth ∧ 1 ≤ s.par.fixedDelay ∧ s.par.fixedDelay < 2 ^ s.par.cntWidth) := by decide

theorem witness_OtherTimerSourceIsIgnored : booted.injectable .tmrother = true ∧ booted.peripheralStill = true := by decide

theorem witness_CounterClockIsWrittenByTickOnly :
    (booted.port.head? ≠ some .reset ∧
      (∀ r, booted.port.head? = some (.request r) ∨ booted.port.head? = some (.issue r) → decode r ≠ .instr .tick) ∧
      ∃ s', step booted = .next s') :=
  ⟨by decide, fun r h => (by rcases h with h | h <;> cases h), _, rfl⟩

theorem witness_DeadlineExpiredClearsSuppression :
    (∀ ch, booted.injectable (deadlineSource ch) = true ∧ booted.peripheralStill = true) ∧
    State.deliverable (deadlineSource .one) (with1 due booted) = true ∧ State.deliverable (deadlineSource .two) (with2 due booted) = true :=
  ⟨fun ch => by cases ch <;> decide, by decide, by decide⟩

/-- Suppressed on channel 1; watching a release on channel 2. -/
theorem witness_PinChangeWithoutActionFlipsTheEdge :
    (let s := with1 due booted
     s.injectable (pinSource .one) = true ∧ s.peripheralStill = true ∧ (s.chan .one).dph = .idle ∧ (s.chan .one).supp = true) ∧
    (let s := with2 (fun c => { c with edgeSel := .release }) booted
     s.injectable (pinSource .two) = true ∧ s.peripheralStill = true ∧ (s.chan .two).dph = .idle ∧
        (s.chan .two).edgeSel = .release) := by decide

theorem witness_PolarityPressInvertsAndSuppresses :
    booted.injectable .pinchg2 = true ∧ booted.busReady = true ∧ booted.ch2.dph = .idle ∧ booted.ch2.supp = false ∧
    booted.ch2.edgeSel = .press := by decide

/-- With the least and the greatest counter whose sum can be drawn. -/
theorem witness_CounterPressStepsAndSuppresses :
    ∀ n ∈ [(-32176 : Int), 33358],
      let s := { booted with counter := n }
      s.injectable .pinchg1 = true ∧ s.busReady = true ∧ s.par.wf = true ∧ s.ch1.dph = .idle ∧ s.ch1.supp = false ∧
        s.ch1.edgeSel = .press ∧ renderable s.par (s.counter + s.par.counterStep) = true := by decide +kernel

/-- With the first counter below and above that. -/
theorem witness_RefusedCounterPressStillSuppresses :
    ∀ n ∈ [(-32177 : Int), 33359],
      let s := { booted with counter := n }
      s.injectable .pinchg1 = true ∧ s.peripheralStill = true ∧ s.ch1.dph = .idle ∧ s.ch1.supp = false ∧
        s.ch1.edgeSel = .press ∧ renderable s.par (s.counter + s.par.counterStep) = false := by decide +kernel

/-- Inside a transfer; and in service. -/
theorem witness_EventIsNotInjectedOverItself :
    inByte.injectable (pinSource .one) = false ∧ inByte.injectable (deadlineSource .one) = false ∧ inByte.injectable .tmrother = false ∧
    (State.enter .pinchg2 booted).injectable (pinSource .two) = false := by decide

theorem witness_PinHandlerDecidesActsAndFinishes :
    ((handling [.pinHandler .two] .idle).running.work = [.pinHandler .two] ∧
      ((handling [.pinHandler .two] .idle).chan .two).dph = .idle) ∧
    ((handling [.pinHandler .two] .act).running.work = [.pinHandler .two] ∧
      ((handling [.pinHandler .two] .act).chan .two).dph = .act) ∧
    (handling [.actArm .two] .act).running.work = [.actArm .two] ∧
    ((handling [.pinHandler .two] .fin).running.work = [.pinHandler .two] ∧
      ((handling [.pinHandler .two] .fin).chan .two).dph = .fin) := by decide

theorem witness_OnePressActsOnce :
    (∀ ch, ∀ i ∈ [pinchg ch, .btnset ch true, .tick], i = pinchg ch ∨ i = .tick ∨ ∃ c l, i = .btnset c l) ∧
    ∀ ch ∈ [Channel.one, .two], booted.par.wf = true ∧ booted.busReady = true ∧ booted.injectable (pinSource ch) = true ∧
      (booted.chan ch).dph = .idle ∧ (booted.chan ch).supp = false ∧ (booted.chan ch).edgeSel = .press ∧
      (ch = .one → renderable booted.par (booted.counter + booted.par.counterStep) = true) := by
  refine ⟨fun ch i hi => ?_, by decide +kernel⟩
  simp only [List.mem_cons, List.not_mem_nil, or_false] at hi
  rcases hi with rfl | rfl | rfl
  · exact .inl rfl
  · exact .inr (.inr ⟨_, _, rfl⟩)
  · exact .inr (.inl rfl)

theorem witness_DeadlineLetsTheNextPressAct :
    ∀ ch ∈ [Channel.one, .two],
      let s := with1 due (with2 due booted)
      s.par.wf = true ∧ s.busReady = true ∧ s.injectable (pinSource ch) = true ∧ s.injectable (deadlineSource ch) = true ∧
        (s.chan ch).dph = .idle ∧ (s.chan ch).edgeSel = .press ∧
        (ch = .one → renderable s.par (s.counter + s.par.counterStep) = true) := by decide +kernel

theorem witness_ChannelsDoNotInterfere :
    Channel.one ≠ Channel.two ∧ booted.par.wf = true ∧ booted.busReady = true ∧ booted.injectable (pinSource .two) = true ∧
    booted.injectable (deadlineSource .two) = true ∧ (booted.chan .two).dph = .idle := by decide +kernel

/-- The least and the greatest length. -/
theorem witness_TransferSendsOneFrame :
    booted.busReady = true ∧ ∀ len ∈ [(1 : BitVec 3), 6], 1 ≤ len.toNat ∧ len.toNat ≤ 6 := by decide

/-- The first value outside each range, with the earlier checks passed; a bus that is busy while the peripheral is still. -/
theorem witness_IllegalRequestsAreRefused :
    booted.peripheralStill = true ∧ booted.xph = .idle ∧ ((inPhase .mode).peripheralStill = true ∧ (inPhase .mode).xph ≠ .idle ∧ (1 : BitVec 3).toNat = 1) ∧
    (131 < (132 : BitVec 8).toNat ∧ (131 : BitVec 8).toNat ≤ 131 ∧ 7 < (8 : BitVec 4).toNat) ∧
    (12 < (13 : BitVec 4).toNat ∧ (12 : BitVec 4).toNat ≤ 12 ∧ 6 < (7 : BitVec 4).toNat ∧ (6 : BitVec 4).toNat ≤ 6) ∧
    (91 < (92 : BitVec 8).toNat ∧ (91 : BitVec 8).toNat ≤ 91) ∧ booted.par.valWidth = some 16 := by decide

theorem witness_TransferStartSavesAndClearsGie :
    ∀ n ∈ [1, 6],
      let s := booted.pushTasks [.xfer .data n (oneByte 0)]
      s.running.work = .xfer .data n (oneByte 0) :: [] ∧ s.xph = .idle ∧ 1 ≤ n ∧ n ≤ 6 := by decide

/-- Each phase; the two spins. -/
theorem witness_FramerPhasesStepByStep :
    (∀ x ∈ [XPhase.select, .mode, .byte, .waitIdle, .drain, .deselect, .restore],
      (inPhase x).running.work = [.framer] ∧ (inPhase x).xph = x ∧ (inPhase x).txrdy = true ∧ (inPhase x).shbusy = false) ∧
    (let s := { inPhase .byte with txrdy := false }
     s.running.work = [.framer] ∧ s.xph = .byte ∧ s.txrdy = false) ∧
    (let s := { inPhase .waitIdle with shbusy := true }
     s.running.work = [.framer] ∧ s.xph = .waitIdle ∧ s.shbusy = true) := by decide

theorem witness_PeripheralAcceptsAndShifts :
    (let s := { booted with txrdy := false }
     s.txrdy = false ∧ s.shbusy = false) ∧
    booted.txrdy = true ∧ inByte.shbusy = true ∧ booted.shbusy = false := by decide

theorem witness_TransferIsMaskedAndRestoresGie :
    (inByte.maskInv ∧ inByte.xph ≠ .idle ∧ inByte.port.head? ≠ some .reset ∧ (∀ r, inByte.port.head? ≠ some (.request r)) ∧
      ∃ s', step inByte = .next s') ∧
    (booted.busReady = true ∧ 1 ≤ (6 : BitVec 3).toNat ∧ (6 : BitVec 3).toNat ≤ 6 ∧
      ∃ t, exec (.xfer .data 6 (oneByte 0)) booted = .next t) :=
  ⟨⟨⟨fun _ => by decide, by decide, by intro r hr; cases hr⟩, by decide, by decide, fun r h => (by cases h), _, rfl⟩,
    by decide, by decide, by decide, _, rfl⟩

/-- Not stuck and with a step of the peripheral (inByte); just started; and stuck, the transmit buffer full. -/
theorem witness_EveryTransferStepCountsDown :
    (inByte.frameInv ∧ inByte.xph ≠ .idle ∧ inByte.running.work = .framer :: [] ∧ inByte.framerStuck = false ∧
      inByte.serEnabled = true) ∧
    (let s := { inPhase .select with xidx := 0, cs := .deasserted, wire := [] }
     s.frameInv ∧ s.xph = .select ∧ s.running.work = .framer :: []) ∧
    (let s := { inByte with txrdy := false, txbuf := 0x03, shbusy := false }
     s.frameInv ∧ s.framerStuck = true ∧ s.running.work = .framer :: []) := by
  refine ⟨⟨witness_StepKeepsWholeFrames.1.1, by decide, by decide, by decide, by decide⟩,
    ⟨⟨rfl, rfl, rfl, by unfold State.lenLegal; decide, rfl⟩, by decide, by decide⟩,
    ⟨⟨1, by decide, by decide, by decide, by decide⟩, rfl, rfl, by unfold State.lenLegal; decide, by decide⟩, by decide, by decide⟩

theorem witness_StuckTransferHangs :
    (let s := { inByte with txrdy := false }
     s.running.work = .framer :: [] ∧ s.framerStuck = true) ∧
    (let s := { booted with par := { par with serLive := false } }
     s.par.serLive = false ∧ s.xph = .idle ∧ s.txrdy = true ∧ s.shbusy = false ∧
        ∀ len ∈ [(1 : BitVec 3), 6], 1 ≤ len.toNat ∧ len.toNat ≤ 6) := by decide

theorem witness_WireByteRowsSendOneByte : booted.busReady = true := by decide

theorem witness_SetPositionSendsThreeBytes :
    booted.busReady = true ∧ (7 : BitVec 4).toNat ≤ 7 ∧ (131 : BitVec 8).toNat ≤ 131 := by decide

theorem witness_PositionBytesReadBack : (7 : BitVec 4).toNat ≤ 7 ∧ (131 : BitVec 8).toNat ≤ 131 := by decide

theorem witness_GlyphSendsFourFrames :
    booted.busReady = true ∧ (12 : BitVec 4).toNat ≤ 12 ∧ (6 : BitVec 4).toNat ≤ 6 ∧ (131 : BitVec 8).toNat ≤ 131 := by decide

/-- Each phase of GLYPH. -/
theorem witness_GlyphPhasesStepByStep :
    ((booted.pushTasks [.glyph 12 6 131]).running.work = .glyph 12 6 131 :: [] ∧ (12 : BitVec 4).toNat ≤ 12 ∧
      (6 : BitVec 4).toNat ≤ 6 ∧ (131 : BitVec 8).toNat ≤ 131) ∧
    ∀ b ∈ [BPhase.posUp, .dataUp, .posLo, .dataLo],
      let s := (booted.setBph b).pushTasks [.glyphNext]
      s.running.work = .glyphNext :: [] ∧ s.running.bph = b := by decide

/-- The ends of the values RENDER draws, and a value of an unbounded width. -/
theorem witness_RenderDrawsSignAndFiveDigits :
    booted.busReady = true ∧ (6 : BitVec 4).toNat ≤ 6 ∧ (91 : BitVec 8).toNat ≤ 91 ∧ renderable booted.par 32767 = true ∧
    renderable booted.par (-32767) = true ∧ renderable { par with valWidth := none } 1000000 = true := by decide

theorem witness_InvertSendsTheNewPolarity :
    booted.busReady = true ∧ (booted.pushTasks [.invert]).running.work = .invert :: [] ∧
    (booted.pushTasks [.sendPolarity]).running.work = .sendPolarity :: [] ∧ (booted.pushTasks [.sendPolarity]).xph = .idle := by decide

theorem witness_TwoInvertsRestorePolarity : booted.busReady = true := by decide

/-- The ends of the sums that are drawn, and the first ones below and above. -/
theorem witness_CounterStepAddsAndRenders :
    (∀ n ∈ [(-32176 : Int), 33358],
      let s := { booted with counter := n }
      s.busReady = true ∧ s.par.wf = true ∧ renderable s.par (s.counter + s.par.counterStep) = true) ∧
    (∀ n ∈ [(-32177 : Int), 33359],
      let s := { booted with counter := n }
      s.peripheralStill = true ∧ s.par.valWidth = some 16 ∧
        (s.counter + s.par.counterStep ≤ -(2 ^ (16 - 1) : Int) ∨ (2 ^ (16 - 1) : Int) - 1 < s.counter + s.par.counterStep)) ∧
    ((booted.pushTasks [.cntstep]).running.work = .cntstep :: [] ∧
      renderable booted.par (booted.counter + booted.par.counterStep) = true) ∧
    (booted.pushTasks [.renderCounter]).running.work = .renderCounter :: [] := by
  decide +kernel

theorem witness_InterruptEntryPushesARecord :
    (let s := { with2 (fun c => { c with pinIfg := true }) booted with port := [.deliver .pinchg2] }
     s.port = .deliver .pinchg2 :: [] ∧ s.deliverable .pinchg2 = true) ∧
    (let s := { booted with port := [.deliver .pinchg2] }
     s.port = .deliver .pinchg2 :: [] ∧ s.deliverable .pinchg2 = false) := by decide

/-- Each of the three handlers before its last step, with its record on the stack. -/
theorem witness_HandlerReturnPopsTheRecord :
    ((handling [.pinHandler .two] .fin).stackInv ∧ (handling [.pinHandler .two] .fin).running.work = [.pinHandler .two] ∧
      ((handling [.pinHandler .two] .fin).chan .two).dph = .fin ∧ (handling [.pinHandler .two] .fin).hs.length = 1) ∧
    ((State.enter .dlexp1 booted).stackInv ∧ (State.enter .dlexp1 booted).running.work = [.dlexp .one] ∧
      (State.enter .dlexp1 booted).hs.length = 1) ∧
    ((State.enter .tmrother booted).stackInv ∧ (State.enter .tmrother booted).running.work = [.tmrother] ∧
      (State.enter .tmrother booted).hs.length = 1) := by
  refine ⟨⟨⟨by decide, fun src => ?_⟩, by decide⟩, ⟨⟨by decide, fun src => ?_⟩, by decide⟩, ⟨by decide, fun src => ?_⟩, by decide⟩ <;>
    cases src <;> decide

theorem witness_PreemptedContextsAreUntouched : entered.hs = entered.hs.head (by decide) :: [] ∧ booted.hs = [] := ⟨rfl, rfl⟩

/-- Two deliverable sources at once (V-IRQ-2); and none. -/
theorem witness_AutomaticEntryTakesTheHighestRank :
    (let s := with1 due (with2 due booted)
     s.port = [] ∧ s.peripheralStill = true ∧ s.deliverable .dlexp1 = true ∧ s.deliverable .dlexp2 = true) ∧
    (booted.port = [] ∧ booted.peripheralStill = true ∧ ∀ src, booted.deliverable src = false) :=
  ⟨by decide, by decide, by decide, fun src => by cases src <;> decide⟩

theorem witness_ParametersAndBacklightAreNotWritten :
    (∃ s', step inByte = .next s') ∧ inByte.port.head? ≠ some .reset ∧ ∀ v, inByte.port.head? ≠ some (.setBacklight v) :=
  ⟨⟨_, rfl⟩, by decide, fun v h => (by cases h)⟩

theorem witness_RecordsOnlyGrow : inByte.port.head? ≠ some .reset ∧ ∃ s', step inByte = .next s' := ⟨by decide, _, rfl⟩

theorem witness_ReceivedByteIsNeverUsed : ∃ s', step inByte = .next s' := ⟨_, rfl⟩

theorem witness_RecordsAreNeverRead : inByte.port.head? ≠ some .reset ∧ ∃ s', step inByte = .next s' := ⟨by decide, _, rfl⟩

theorem witness_IssuedOperationMatchesTheRequest :
    opTask (.glyph 7 6 126) = some (.glyph 7 6 126) ∧ afterReset.gie = false ∧ afterReset.xph = .idle ∧ afterReset.mayIssue = true ∧
    afterReset.port = [] := by decide

end Sys2Proof.Tests
end

/-! Proofs: ButtonDebouncer (spec/40_debounce.md). The edge detector (R120), and each step of the PINCHG handler in the running
context (R122 to R124). -/

namespace Sys2Proof.Machine

/-! ## The edge detector -/

theorem watchedEdge_iff (old level : Bool) (e : Edge) :
    watchedEdge old level e = true ↔
      (old = true ∧ level = false ∧ e = .press) ∨ (old = false ∧ level = true ∧ e = .release) := by
  cases e <;> simp [watchedEdge]

theorem exec_btnset (ch : Channel) (level : Bool) (s : State) : exec (.btnset ch level) s = .next (s.setButton ch level) := rfl

/-- Settles O18: BTNSET's next state is `setButton`, whose new flag is the old one or the watched edge. -/
theorem buttonChangeSetsTheFlagOnTheWatchedEdge : Obligations.ButtonChangeSetsTheFlagOnTheWatchedEdge := by
  intro s ch level
  refine ⟨(s.chan ch).pinIfg || watchedEdge (s.chan ch).btn level (s.chan ch).edgeSel, exec_btnset ch level s, ?_⟩
  rw [Bool.or_eq_true, watchedEdge_iff]

/-! ## The work of the running context beside the channels and the log -/

theorem setChan_setWork (s : State) (w : List Task) (ch : Channel) (c : Chan) :
    (s.setWork w).setChan ch c = (s.setChan ch c).setWork w :=
  setWork_comm (State.setChan ch c) (fun _ _ _ => by cases ch <;> rfl) s w

theorem appendActlog_setWork (s : State) (w : List Task) (ch : Channel) :
    { s.setWork w with actlog := s.actlog ++ [ch] } = State.setWork w { s with actlog := s.actlog ++ [ch] } := by
  simpa using setWork_comm (fun u => { u with actlog := u.actlog ++ [ch] }) (fun _ _ _ => rfl) s w

/-! ## The handler's steps, with its task already taken off the work -/

theorem qualifies_iff (s : State) (ch : Channel) :
    s.qualifies ch = true ↔ (s.chan ch).supp = false ∧ (s.chan ch).edgeSel = .press := by
  simp [State.qualifies]

theorem pinStep_idle {s : State} {ch : Channel} (h : (s.chan ch).dph = .idle) :
    s.pinStep ch = (s.pinDecide ch).pushTasks [.pinHandler ch] := by
  rw [State.pinStep, h]

theorem pinStep_act {s : State} {ch : Channel} (h : (s.chan ch).dph = .act) : s.pinStep ch = s.actLog ch := by
  rw [State.pinStep, h]

theorem pinStep_fin {s : State} {ch : Channel} (h : (s.chan ch).dph = .fin) : s.pinStep ch = s.pinFinish ch := by
  rw [State.pinStep, h]

theorem pinDecide_eq (s : State) (ch : Channel) :
    s.pinDecide ch = s.setChan ch
      { s.chan ch with dph := if (s.chan ch).supp = false ∧ (s.chan ch).edgeSel = .press then .act else .fin } := by
  simp only [State.pinDecide, qualifies_iff]

theorem actLog_setWork (s : State) (ch : Channel) (rest : List Task) :
    (s.setWork rest).actLog ch =
      State.setWork (boundAction ch :: .actArm ch :: rest) { s with actlog := s.actlog ++ [ch] } := by
  rw [State.actLog, setWork_actlog, appendActlog_setWork, setWork_pushTasks]
  rfl

/-- The three writes of the third sub-step (SUPP, ARM, DPH) come to one write of the channel. -/
theorem suppressAndArm_eq (s : State) (ch : Channel) :
    s.suppressAndArm ch = s.setChan ch
      { s.chan ch with
        supp := true
        dlExp := (s.cnt + s.par.fixedDelay) % 2 ^ s.par.cntWidth
        dlValid := true
        cmpIfg := false
        cmpIe := true
        dph := .fin } := by
  simp [State.suppressAndArm, State.arm]

theorem flipEdge_eq (e : Edge) : flipEdge e = if e = .release then .press else .release := by
  cases e <;> rfl

/-! ## The same steps as steps of the running context -/

section RunningContext
variable {s : State} {ch : Channel} {rest : List Task}

theorem softStep_pinDecide (hw : s.running.work = .pinHandler ch :: rest) (hd : (s.chan ch).dph = .idle) :
    s.softStep = s.pinDecide ch := by
  have hd' : ((s.setWork rest).chan ch).dph = .idle := by rw [chan_setWork, hd]
  have hw' : (s.pinDecide ch).running.work = .pinHandler ch :: rest := by rw [State.pinDecide, running_setChan, hw]
  calc s.softStep
      = ((s.setWork rest).pinDecide ch).pushTasks [.pinHandler ch] := (softStep_cons s hw).trans (pinStep_idle hd')
    _ = ((s.pinDecide ch).setWork rest).pushTasks [.pinHandler ch] := by
        rw [pinDecide_eq, pinDecide_eq, chan_setWork, setChan_setWork]
    _ = s.pinDecide ch := by rw [setWork_pushTasks]; exact setWork_same _ hw'

theorem softStep_actLog (hw : s.running.work = .pinHandler ch :: rest) (hd : (s.chan ch).dph = .act) :
    s.softStep = State.setWork (boundAction ch :: .actArm ch :: rest) { s with actlog := s.actlog ++ [ch] } := by
  have hd' : ((s.setWork rest).chan ch).dph = .act := by rw [chan_setWork, hd]
  exact (softStep_cons s hw).trans ((pinStep_act hd').trans (actLog_setWork s ch rest))

theorem softStep_suppressAndArm (hw : s.running.work = .actArm ch :: rest) :
    s.softStep = (s.suppressAndArm ch).setWork (.pinHandler ch :: rest) := by
  calc s.softStep
      = ((s.setWork rest).suppressAndArm ch).pushTasks [.pinHandler ch] := softStep_cons s hw
    _ = ((s.suppressAndArm ch).setWork rest).pushTasks [.pinHandler ch] := by
        rw [suppressAndArm_eq, suppressAndArm_eq, chan_setWork, setWork_cnt, setWork_par, setChan_setWork]
    _ = (s.suppressAndArm ch).setWork (.pinHandler ch :: rest) := setWork_pushTasks _ _ _

theorem softStep_pinFinish (hw : s.running.work = .pinHandler ch :: rest) (hd : (s.chan ch).dph = .fin) :
    s.softStep = State.returnFromHandler (State.setWork rest
      (s.setChan ch { s.chan ch with edgeSel := flipEdge (s.chan ch).edgeSel, pinIfg := false, dph := .idle })) := by
  have hd' : ((s.setWork rest).chan ch).dph = .fin := by rw [chan_setWork, hd]
  rw [softStep_cons s hw]
  refine (pinStep_fin hd').trans ?_
  rw [State.pinFinish, chan_setWork, setChan_setWork]

end RunningContext

/-- Settles O26, a clause per phase of the handler: DECIDE, ACT, the third sub-step, FIN. -/
theorem pinHandlerDecidesActsAndFinishes : Obligations.PinHandlerDecidesActsAndFinishes := by
  refine ⟨fun s ch rest hw hd => ?decide, fun s ch rest hw hd => ?act, fun s ch rest hw => ?arm, fun s ch rest hw hd => ?fin⟩
  case decide => rw [softStep_pinDecide hw hd, pinDecide_eq]
  case act =>
    rw [softStep_actLog hw hd]
    cases ch <;> rfl
  case arm => rw [softStep_suppressAndArm hw, suppressAndArm_eq]
  case fin => rw [softStep_pinFinish hw hd, flipEdge_eq]

end Sys2Proof.Machine

/-! Proofs: TimerDeadlineService (spec/41_deadline_timer.md). TICK (R140), the tick a deadline matches on after ARM (R141, R143,
R145), and no match after DISARM (R142). -/

namespace Sys2Proof.Machine

theorem exec_tick (s : State) : exec .tick s = .next s.tick := rfl

/-- Settles O13: TICK's next state is `State.tick`, and the statement is that with `nextCount` and `matchFlag` (R140) written
out. -/
theorem tickCountsAndCompares : Obligations.TickCountsAndCompares := by
  exact exec_tick

/-! ## The tick an armed deadline matches on -/

/-- Counting from `c` modulo `m`, the residue `d` steps ahead is met within `n` steps exactly from the `d`-th step on: a step
that meets it is congruent to `d`, hence no less than `d`. -/
theorem exists_count_eq_iff_le {c d m : Nat} (n : Nat) (hpos : 1 ≤ d) (hlt : d < m) :
    (∃ k, 1 ≤ k ∧ k ≤ n ∧ (c + k) % m = (c + d) % m) ↔ d ≤ n := by
  constructor
  · rintro ⟨k, -, hkn, hmod⟩
    have hkd : k ≡ d [MOD m] := Nat.ModEq.add_left_cancel' c hmod
    calc d = d % m := (Nat.mod_eq_of_lt hlt).symm
      _ = k % m := hkd.symm
      _ ≤ k := Nat.mod_le k m
      _ ≤ n := hkn
  · exact fun hdn => ⟨d, hpos, hdn, rfl⟩

theorem arm_cnt (s : State) (ch : Channel) : (s.arm ch).cnt = s.cnt := setChan_cnt _ _ _

theorem arm_par (s : State) (ch : Channel) : (s.arm ch).par = s.par := setChan_par _ _ _

theorem chan_arm_same (s : State) (ch : Channel) :
    (s.arm ch).chan ch =
      { s.chan ch with
        dlExp := (s.cnt + s.par.fixedDelay) % 2 ^ s.par.cntWidth
        dlValid := true
        cmpIfg := false
        cmpIe := true } := chan_setChan_same _ _ _

/-- Settles O14: `ticks_flag` says on which ticks a deadline matches; after ARM the flag starts at 0, and the first count that
equals the deadline is FIXED_DELAY steps ahead. -/
theorem armedDeadlineMatchesOnTheDelayedTick : Obligations.ArmedDeadlineMatchesOnTheDelayedTick := by
  intro s ch
  refine ⟨rfl, fun n hcnt hpos hlt => ?_⟩
  have hflag := ticks_flag (s.arm ch) n ch (by rwa [arm_cnt, arm_par])
  rw [hflag, arm_cnt, arm_par, chan_arm_same, exists_count_eq_iff_le n hpos hlt]
  simp

/-! ## A channel with no armed deadline -/

theorem chan_tick (s : State) (ch : Channel) :
    s.tick.chan ch = { s.chan ch with cmpIfg := matchFlag (nextCount s) (s.chan ch) } := by
  cases ch <;> rfl

theorem matchFlag_of_unarmed {c : Chan} (h : c.dlValid = false) (count : Nat) : matchFlag count c = c.cmpIfg := by
  simp [matchFlag, h]

theorem chan_ticks_of_unarmed {s : State} {ch : Channel} (n : Nat) (h : (s.chan ch).dlValid = false) :
    (s.ticks n).chan ch = s.chan ch := by
  induction n generalizing s with
  | zero => rfl
  | succ n ih =>
    have htick : s.tick.chan ch = s.chan ch := by rw [chan_tick, matchFlag_of_unarmed h]
    calc (s.tick.ticks n).chan ch
        = s.tick.chan ch := ih (by rw [htick, h])
      _ = s.chan ch := htick

theorem chan_disarm_same (s : State) (ch : Channel) :
    (s.disarm ch).chan ch = { s.chan ch with cmpIe := false, cmpIfg := false, dlValid := false } := chan_setChan_same _ _ _

theorem pending_deadlineSource (s : State) (ch : Channel) :
    s.pending (deadlineSource ch) = ((s.chan ch).cmpIfg && (s.chan ch).cmpIe) := by
  cases ch <;> rfl

/-- Settles O15: DISARM leaves the channel unarmed, and no TICK changes a channel that is unarmed. -/
theorem disarmedDeadlineNeverMatches : Obligations.DisarmedDeadlineNeverMatches := by
  intro s ch n
  have hchan : ((s.disarm ch).ticks n).chan ch = { s.chan ch with cmpIe := false, cmpIfg := false, dlValid := false } := by
    rw [chan_ticks_of_unarmed n (by rw [chan_disarm_same]), chan_disarm_same]
  refine ⟨rfl, ?_, ?_, ?_⟩
  · rw [hchan]
  · rw [hchan]
  · rw [pending_deadlineSource, hchan]; rfl

end Sys2Proof.Machine

/-! Proofs: the display bus (spec/42_displaybus.md). The framer's phases in the running context (R162 to R168), and the critical
section of a transfer: GIE is 0 from phase 1 to phase 8, which gives it back (R174). -/

namespace Sys2Proof.Machine

/-! ## Phases 2 to 8 as steps of the running context -/

section RunningFramer
variable {s : State} {rest : List Task}

/-- A phase `f` that puts the framer back before the work, and neither reads nor writes a context, is the whole step. -/
theorem softStep_phase (f : State → State)
    (hf : ∀ (u : State) (m : Ctx) (h : List Activation), f { u with main := m, hs := h } = { f u with main := m, hs := h })
    (hw : s.running.work = .framer :: rest)
    (hphase : ∀ u : State, u.xph = s.xph → u.framerStep = (f u).pushTasks [.framer]) : s.softStep = f s :=
  calc s.softStep
      = (s.setWork rest).framerStep := softStep_cons s hw
    _ = (f (s.setWork rest)).pushTasks [.framer] := hphase _ (setWork_xph s rest)
    _ = (f s).setWork (.framer :: rest) := by rw [setWork_comm f hf, setWork_pushTasks]; rfl
    _ = f (s.setWork (.framer :: rest)) := (setWork_comm f hf s _).symm
    _ = f s := by rw [setWork_same s hw]

theorem softStep_select (hw : s.running.work = .framer :: rest) (hx : s.xph = .select) : s.softStep = s.phaseSelect :=
  softStep_phase _ (fun _ _ _ => rfl) hw fun u hu => by rw [State.framerStep, hu, hx]

theorem softStep_mode (hw : s.running.work = .framer :: rest) (hx : s.xph = .mode) : s.softStep = s.phaseMode :=
  softStep_phase _ (fun _ _ _ => rfl) hw fun u hu => by rw [State.framerStep, hu, hx]

theorem softStep_byte (hw : s.running.work = .framer :: rest) (hx : s.xph = .byte) : s.softStep = s.phaseByte :=
  softStep_phase _ (fun u _ _ => by cases h : u.txrdy <;> simp [State.phaseByte, h]) hw
    fun u hu => by rw [State.framerStep, hu, hx]

theorem softStep_waitIdle (hw : s.running.work = .framer :: rest) (hx : s.xph = .waitIdle) : s.softStep = s.phaseWaitIdle :=
  softStep_phase _ (fun u _ _ => by cases h : u.txrdy <;> cases k : u.shbusy <;> simp [State.phaseWaitIdle, State.busy, h, k])
    hw fun u hu => by rw [State.framerStep, hu, hx]

theorem softStep_drain (hw : s.running.work = .framer :: rest) (hx : s.xph = .drain) : s.softStep = s.phaseDrain :=
  softStep_phase _ (fun _ _ _ => rfl) hw fun u hu => by rw [State.framerStep, hu, hx]

theorem softStep_deselect (hw : s.running.work = .framer :: rest) (hx : s.xph = .deselect) : s.softStep = s.phaseDeselect :=
  softStep_phase _ (fun _ _ _ => rfl) hw fun u hu => by rw [State.framerStep, hu, hx]

/-- Phase 8 does not put the framer back: the transfer's place in the work is gone. -/
theorem softStep_restore (hw : s.running.work = .framer :: rest) (hx : s.xph = .restore) :
    s.softStep = s.phaseRestore.setWork rest :=
  calc s.softStep
      = (s.setWork rest).framerStep := softStep_cons s hw
    _ = (s.setWork rest).phaseRestore := by rw [State.framerStep, setWork_xph, hx]
    _ = s.phaseRestore.setWork rest := setWork_comm State.phaseRestore (fun _ _ _ => rfl) s rest

end RunningFramer

theorem phaseByte_ready {s : State} (h : s.txrdy = true) :
    s.phaseByte =
      { s with
        txbuf := getByte s.xbuf s.xidx
        txrdy := false
        xidx := s.xidx + 1
        xph := if s.xidx + 1 = s.xlen then .waitIdle else .byte } := if_pos h

theorem phaseByte_full {s : State} (h : s.txrdy = false) : s.phaseByte = s := if_neg (by simp [h])

theorem busy_iff (s : State) : s.busy = true ↔ s.txrdy = false ∨ s.shbusy = true := by simp [State.busy]

theorem phaseWaitIdle_done {s : State} (ht : s.txrdy = true) (hb : s.shbusy = false) :
    s.phaseWaitIdle = { s with xph := .drain } := if_neg (by simp [busy_iff, ht, hb])

theorem phaseWaitIdle_busy {s : State} (h : s.txrdy = false ∨ s.shbusy = true) : s.phaseWaitIdle = s :=
  if_pos ((busy_iff s).2 h)

/-- Settles O33, a clause per phase; in X_BYTE and X_WAITIDLE one more for the framer that spins. -/
theorem framerPhasesStepByStep : Obligations.FramerPhasesStepByStep := by
  intro s rest hw
  refine ⟨fun hx => ?select, fun hx => ?mode, fun hx ht => ?byte, fun hx ht => ?byteStuck, fun hx ht hb => ?waitIdle,
    fun hx hb => ?waitStuck, fun hx => ?drain, fun hx => ?deselect, fun hx => ?restore⟩
  case select => exact softStep_select hw hx
  case mode => exact softStep_mode hw hx
  case byte => rw [softStep_byte hw hx, phaseByte_ready ht]
  case byteStuck => rw [softStep_byte hw hx, phaseByte_full ht]
  case waitIdle => rw [softStep_waitIdle hw hx, phaseWaitIdle_done ht hb]
  case waitStuck => rw [softStep_waitIdle hw hx, phaseWaitIdle_busy hb]
  case drain => exact softStep_drain hw hx
  case deselect => exact softStep_deselect hw hx
  case restore => exact softStep_restore hw hx

/-! ## Nothing is delivered while GIE is 0 -/

theorem deliverable_of_masked {s : State} (hg : s.gie = false) (src : Source) : s.deliverable src = false := by
  simp [State.deliverable, hg]

theorem deliver_of_masked {s : State} (hg : s.gie = false) (src : Source) : s.deliver src = s :=
  if_neg (by simp [deliverable_of_masked hg])

theorem highestDeliverable_of_masked {s : State} (hg : s.gie = false) : s.highestDeliverable = none := by
  by_contra hne
  obtain ⟨src, hsrc⟩ := Option.ne_none_iff_exists'.1 hne
  have hdel := highestDeliverable_deliverable s src hsrc
  rw [deliverable_of_masked hg] at hdel
  exact Bool.false_ne_true hdel

theorem mainIdle_of_work {s : State} {t : Task} (ht : t ∈ s.running.work) : s.mainIdle = false := by
  cases hs : s.hs with
  | nil =>
    have hmain : s.main.work ≠ [] := List.ne_nil_of_mem (by simpa [State.running, hs] using ht)
    simp [State.mainIdle, hmain]
  | cons r older => simp [State.mainIdle, hs]

/-! ## What each agent does to the critical section -/

/-- From `s` to `t` the registers of the critical section (XPH, GIE, SAVED_GIE) are as before. -/
structure SameMask (s t : State) : Prop where
  xph : t.xph = s.xph
  gie : t.gie = s.gie
  savedGie : t.savedGie = s.savedGie

theorem sameMask_refl (s : State) : SameMask s s := ⟨rfl, rfl, rfl⟩

theorem sameMask_serAccept (s : State) : SameMask s s.serAccept := by
  unfold State.serAccept
  split <;> exact ⟨rfl, rfl, rfl⟩

theorem sameMask_serShift (s : State) : SameMask s s.serShift := by
  unfold State.serShift
  split <;> exact ⟨rfl, rfl, rfl⟩

theorem sameMask_serStep (s : State) : SameMask s s.serStep := by
  unfold State.serStep
  split
  · exact sameMask_serShift s
  · exact sameMask_serAccept s

theorem sameMask_pushTasks (s : State) (ts : List Task) : SameMask s (s.pushTasks ts) :=
  ⟨pushTasks_xph s ts, pushTasks_gie s ts, pushTasks_savedGie s ts⟩

theorem sameMask_setButton (s : State) (ch : Channel) (level : Bool) : SameMask s (s.setButton ch level) :=
  ⟨setChan_xph _ _ _, setChan_gie _ _ _, setChan_savedGie _ _ _⟩

/-- A request issued to both layers while GIE is 0: an operation only waits in the work, an event's delivery is not enabled, and
the other rows are the environment's or refused. -/
theorem sameMask_issueInstr {s t : State} (hg : s.gie = false) {i : Instr} (h : s.issueInstr i = .next t) : SameMask s t := by
  have call : ∀ task, SameMask s (if s.mayIssue then s.pushTasks [task] else s) := by
    intro task
    split
    · exact sameMask_pushTasks s _
    · exact sameMask_refl s
  have event : ∀ src, SameMask s (s.deliver src) := fun src => by rw [deliver_of_masked hg]; exact sameMask_refl s
  cases i <;> cases h
  case tick => exact ⟨rfl, rfl, rfl⟩
  case btnset ch level => exact sameMask_setButton s ch level
  case reserved7 => exact ⟨rfl, rfl, rfl⟩
  case reservedEF => exact ⟨rfl, rfl, rfl⟩
  case pinchg1 => exact event _
  case pinchg2 => exact event _
  case dlexp1 => exact event _
  case dlexp2 => exact event _
  case tmrother => exact event _
  all_goals exact call _

/-- While a transfer is in flight, a move other than reset and a core-layer request is the running context's step, or keeps the
critical section. -/
theorem move_inFlight {s t : State} (hm : s.maskInv) (hx : s.xph ≠ .idle) {m : Move} (hreset : m ≠ .reset)
    (hrequest : ∀ r, m ≠ .request r) (h : s.move m = .next t) : SameMask s t ∨ t = s.softStep := by
  obtain ⟨hg, hframer⟩ := hm.1 hx
  cases m with
  | request r => exact absurd rfl (hrequest r)
  | reset => exact absurd rfl hreset
  | issue r =>
    simp only [State.move, State.issue] at h
    split at h
    · exact .inl (sameMask_issueInstr hg h)
    · cases h
  | run => cases h; exact .inr rfl
  | serAccept => cases h; exact .inl (sameMask_serAccept s)
  | serShift => cases h; exact .inl (sameMask_serShift s)
  | deliver src => cases h; rw [deliver_of_masked hg]; exact .inl (sameMask_refl s)
  | tmrOtherRequest => cases h; exact .inl ⟨rfl, rfl, rfl⟩
  | setGie v =>
    cases h
    have hkeep : s.writeGie v = s := if_neg (by simp [mainIdle_of_work hframer])
    rw [hkeep]
    exact .inl (sameMask_refl s)
  | setBacklight v => cases h; exact .inl ⟨rfl, rfl, rfl⟩

theorem autoStep_of_masked {s : State} (hg : s.gie = false) : SameMask s s.autoStep ∨ s.autoStep = s.softStep := by
  unfold State.autoStep
  split
  · exact .inl (sameMask_serStep s)
  · rw [highestDeliverable_of_masked hg]; exact .inr rfl

/-- A transfer in flight in `s` is still so in `t`, with GIE 0 and its saved value kept, or phase 8 has given GIE back. -/
def KeepsOrRestoresGie (s t : State) : Prop :=
  (t.xph ≠ .idle ∧ t.savedGie = s.savedGie ∧ t.gie = false) ∨ (t.xph = .idle ∧ t.gie = s.savedGie)

theorem keepsOrRestoresGie_of_agent {s t : State} (hm : s.maskInv) (hx : s.xph ≠ .idle)
    (h : SameMask s t ∨ t = s.softStep) : KeepsOrRestoresGie s t := by
  rcases h with ⟨hxph, hgie, hsaved⟩ | rfl
  · exact .inl ⟨by rwa [hxph], hsaved, hgie.trans (hm.1 hx).1⟩
  · exact softStep_inFlight hm hx

theorem step_inFlight {s t : State} (hm : s.maskInv) (hx : s.xph ≠ .idle) (hreset : s.port.head? ≠ some .reset)
    (hrequest : ∀ r, s.port.head? ≠ some (.request r)) (h : step s = .next t) : KeepsOrRestoresGie s t := by
  unfold step at h
  split at h
  · cases h
    exact keepsOrRestoresGie_of_agent hm hx (autoStep_of_masked (hm.1 hx).1)
  · rename_i m rest hport
    rw [hport, List.head?_cons] at hreset
    simp only [hport, List.head?_cons] at hrequest
    have hagent := move_inFlight (s := { s with port := rest }) hm hx (fun e => hreset (congrArg some e))
      (fun r e => hrequest r (congrArg some e)) h
    exact keepsOrRestoresGie_of_agent (s := { s with port := rest }) hm hx hagent

theorem exec_xfer_ready {s : State} (m : Mode) {len : BitVec 3} (b : Bytes6) (hr : s.busReady = true) (h1 : 1 ≤ len.toNat)
    (h6 : len.toNat ≤ 6) : exec (.xfer m len b) s = .next (afterXfer m len.toNat b s) :=
  congrArg Host.Outcome.next (callOp_xfer m len.toNat b s hr h1 h6)

/-- Settles O35: the mask invariant gives GIE = 0, under which nothing is deliverable; each step is then the running context's
or keeps the critical section (`step_inFlight`). A completed XFER is `afterXfer`, which has GIE as it was. -/
theorem transferIsMaskedAndRestoresGie : Obligations.TransferIsMaskedAndRestoresGie := by
  constructor
  · intro s s' hm hx hreset hrequest hstep
    have hg : s.gie = false := (hm.1 hx).1
    exact ⟨hg, deliverable_of_masked hg, step_inFlight hm hx hreset hrequest hstep⟩
  · intro s t m len b hr h1 h6 hexec
    rw [exec_xfer_ready m b hr h1 h6] at hexec
    cases hexec
    rfl

end Sys2Proof.Machine

/-! Proofs: the cursor mapper (spec/43_position_mapper.md). The three bytes of SETPOS as numbers, and reading the position back
from their low nibbles (R191). -/

namespace Sys2Proof.Machine

/-! ## A command byte: its base opcode plus the operand's nibble -/

theorem wireColhi_toNat (c : BitVec 4) : (wireColhi c).toNat = 0x10 + c.toNat := by revert c; decide

theorem wireCollo_toNat (c : BitVec 4) : (wireCollo c).toNat = c.toNat := by revert c; decide

theorem wirePage_toNat (p : BitVec 4) : (wirePage p).toNat = 0xB0 + p.toNat := by revert p; decide

theorem wireColhi_and_nibble (c : BitVec 4) : wireColhi c &&& 0x0F = c.setWidth 8 := by revert c; decide

theorem wireCollo_and_nibble (c : BitVec 4) : wireCollo c &&& 0x0F = c.setWidth 8 := by revert c; decide

theorem wirePage_and_nibble (p : BitVec 4) : wirePage p &&& 0x0F = p.setWidth 8 := by revert p; decide

/-! ## The two nibbles of a column -/

theorem colHi_toNat (col : BitVec 8) : (colHi col).toNat = col.toNat / 16 := by
  have hlt := col.isLt
  rw [colHi, BitVec.extractLsb'_toNat, Nat.shiftRight_eq_div_pow]
  omega

theorem colLo_toNat (col : BitVec 8) : (colLo col).toNat = col.toNat % 16 := by
  rw [colLo, BitVec.extractLsb'_toNat, Nat.shiftRight_zero]

theorem colHi_shift_or_colLo (col : BitVec 8) : (colHi col).setWidth 8 <<< 4 ||| (colLo col).setWidth 8 = col := by
  revert col; decide

/-! ## The bytes of a position -/

theorem posBytes_b0_toNat (page : BitVec 4) (col : BitVec 8) : (posBytes page col).b0.toNat = 0x10 + col.toNat / 16 := by
  rw [posBytes, wireColhi_toNat, colHi_toNat]

theorem posBytes_b1_toNat (page : BitVec 4) (col : BitVec 8) : (posBytes page col).b1.toNat = col.toNat % 16 := by
  rw [posBytes, wireCollo_toNat, colLo_toNat]

theorem posBytes_b2_toNat (page : BitVec 4) (col : BitVec 8) : (posBytes page col).b2.toNat = 0xB0 + page.toNat :=
  wirePage_toNat page

/-- For every column, legal or not. -/
theorem col_eq_posBytes_nibbles (page : BitVec 4) (col : BitVec 8) :
    col = (((posBytes page col).b0 &&& 0x0F) <<< 4) ||| ((posBytes page col).b1 &&& 0x0F) := by
  rw [posBytes, wireColhi_and_nibble, wireCollo_and_nibble, colHi_shift_or_colLo]

/-- For every page, legal or not. -/
theorem page_eq_posBytes_nibble (page : BitVec 4) (col : BitVec 8) : page.setWidth 8 = (posBytes page col).b2 &&& 0x0F :=
  (wirePage_and_nibble page).symm

/-- Settles O40: the bytes are 0x10 + column / 16, column % 16 and 0xB0 + page, and 131 is 16 * 8 + 3, so that b0 = 0x18
leaves at most 3 for b1. The position is read back from the bytes of any operands. -/
theorem positionBytesReadBack : Obligations.PositionBytesReadBack := by
  intro page col hpage hcol
  have hb0 := posBytes_b0_toNat page col
  have hb1 := posBytes_b1_toNat page col
  have hb2 := posBytes_b2_toNat page col
  refine ⟨by omega, by omega, by omega, col_eq_posBytes_nibbles page col, page_eq_posBytes_nibble page col, ?_⟩
  rintro ⟨h18, h3⟩
  have hhi : (posBytes page col).b0.toNat = 0x18 := congrArg BitVec.toNat h18
  omega

end Sys2Proof.Machine

/-! Proofs: the glyph blit (spec/44_glyph_blit.md). The two halves of a glyph as font addresses (R61, R201), the registers the last
transfer of a GLYPH leaves, and the four frames of GLYPH (R200, R202). -/

namespace Sys2Proof.Machine

/-! ## The frames of a glyph -/

/-- The half of page + 1 (R201, R202). -/
theorem halfFrame_first (p : Params) (idx : BitVec 4) :
    halfFrame p idx 0 = frame .data ((List.range 6).map (fun k => p.font.getD (12 * idx.toNat + k) 0)) := by
  simp only [halfFrame, fontRead, Nat.zero_add]

/-- The half of the nominal page (R201, R202). -/
theorem halfFrame_second (p : Params) (idx : BitVec 4) :
    halfFrame p idx halfBytes = frame .data ((List.range 6).map (fun k => p.font.getD (12 * idx.toNat + (6 + k)) 0)) := rfl

theorem glyphFrames_eq (p : Params) (idx page : BitVec 4) (col : BitVec 8) :
    glyphFrames p idx page col =
      frame .command [wireColhi (colHi col), wireCollo (colLo col), wirePage (page + 1)] ++
        frame .data ((List.range 6).map (fun k => p.font.getD (12 * idx.toNat + k) 0)) ++
        frame .command [wireColhi (colHi col), wireCollo (colLo col), wirePage page] ++
        frame .data ((List.range 6).map (fun k => p.font.getD (12 * idx.toNat + (6 + k)) 0)) := by
  rw [glyphFrames, halfFrame_first, halfFrame_second, posFrame, posFrame]

/-! ## What GLYPH leaves on the bus -/

section AfterGlyph
variable (idx page : BitVec 4) (col : BitVec 8) (s : State)

@[simp] theorem afterGlyph_cs : (afterGlyph idx page col s).cs = .deasserted := setBph_cs _ _

@[simp] theorem afterGlyph_cd : (afterGlyph idx page col s).cd = .data := setBph_cd _ _

@[simp] theorem afterGlyph_rxfull : (afterGlyph idx page col s).rxfull = false := setBph_rxfull _ _

end AfterGlyph

theorem exec_glyph_ready {s : State} {idx page : BitVec 4} {col : BitVec 8} (hr : s.busReady = true) (hi : idx.toNat ≤ 12)
    (hp : page.toNat ≤ 6) (hc : col.toNat ≤ 131) : exec (.glyph idx page col) s = .next (afterGlyph idx page col s) :=
  congrArg Host.Outcome.next (callOp_glyph idx page col s hr (Nat.lt_succ_of_le hi) hp hc)

/-- Settles O41: a legal GLYPH on a ready bus comes to `afterGlyph`, which ends in a data transfer and differs from the state before
in the registers of the bus, the glyph's frames and the running context (`afterGlyph_drew`). -/
theorem glyphSendsFourFrames : Obligations.GlyphSendsFourFrames := by
  intro s idx page col hr hi hp hc
  refine ⟨afterGlyph idx page col s, exec_glyph_ready hr hi hp hc, afterGlyph_cs .., afterGlyph_cd .., afterGlyph_rxfull .., ?_⟩
  rw [← glyphFrames_eq]
  exact afterGlyph_drew idx page col s

end Sys2Proof.Machine

/-! Proofs: NumberRenderer and PolarityState (spec/45_bound_actions.md). The slots of the digit buffer (R215, R216), and INVERT run
twice (R210, R211). -/

namespace Sys2Proof.Machine

/-! ## The digit buffer -/

@[simp] theorem digits_length (m : Nat) : (digits m).length = 5 := by
  rw [digits, List.length_reverse, digitSlots_length]; rfl

/-- Slot k of the loop, least significant first: the first slot of a run that must store, and a slot the value reaches, hold a
digit. -/
theorem digitSlots_getD {slots k : Nat} (m : Nat) (first : Bool) (hk : k < slots) :
    (digitSlots slots m first).getD k glyphBlank =
      if first = true ∧ k = 0 ∨ m / 10 ^ k ≠ 0 then BitVec.ofNat 4 (m / 10 ^ k % 10) else glyphBlank := by
  induction slots generalizing m k first with
  | zero => omega
  | succ slots ih =>
    by_cases hstore : first = true ∨ m ≠ 0
    · rw [digitSlots, if_pos (by simpa using hstore)]
      cases k with
      | zero => simp [hstore]
      | succ k =>
        rw [List.getD_cons_succ, ih _ _ (by omega), Nat.div_div_eq_div_mul, ← Nat.pow_succ']
        simp
    · obtain ⟨rfl, rfl⟩ : first = false ∧ m = 0 := by simpa using hstore
      rw [digitSlots, if_neg (by simp)]
      cases k with
      | zero => simp
      | succ k =>
        rw [List.getD_cons_succ, ih _ _ (by omega)]
        simp

/-- Counted from the right, the slots of the buffer are those of the loop. -/
theorem digits_getD_from_right {k : Nat} (m : Nat) (hk : k < 5) :
    (digits m).getD (4 - k) glyphBlank = (digitSlots nDigits m true).getD k glyphBlank := by
  have hlen : (digitSlots nDigits m true).length = 5 := digitSlots_length ..
  rw [digits, List.getD_reverse _ (by omega), hlen, show 5 - 1 - (4 - k) = k by omega]

/-- Settles O42: slot 4 - k of the buffer is slot k of the loop, which starts with a digit whatever the value is. -/
theorem digitsFillFromTheRight : Obligations.DigitsFillFromTheRight := by
  intro m k hk
  refine ⟨digits_length m, ?_⟩
  rw [digits_getD_from_right m hk, digitSlots_getD (slots := nDigits) m true hk]
  simp [glyphBlank]

/-! ## INVERT -/

/-- What INVERT leaves of a ready bus: POL toggled, then the transfer of the new bit. -/
def afterInvert (s : State) : State :=
  afterXfer .command 1 (oneByte (wireInv (s.pol ^^^ 1))) { s with pol := s.pol ^^^ 1 }

theorem exec_invert_ready {s : State} (hr : s.busReady = true) : exec .invert s = .next (afterInvert s) :=
  congrArg Host.Outcome.next (callOp_invert s hr)

@[simp] theorem afterInvert_pol (s : State) : (afterInvert s).pol = s.pol ^^^ 1 := rfl

@[simp] theorem afterInvert_busReady (s : State) : (afterInvert s).busReady = s.busReady := rfl

theorem afterInvert_wire (s : State) : (afterInvert s).wire = s.wire ++ frame .command [wireInv (s.pol ^^^ 1)] := rfl

theorem toggle_toggle (p : BitVec 1) : p ^^^ 1 ^^^ 1 = p := by rw [BitVec.xor_assoc, BitVec.xor_self, BitVec.xor_zero]

/-- The bytes of the two polarities differ exactly in bit 0. -/
theorem wireInv_toggle_xor (p : BitVec 1) : wireInv (p ^^^ 1) ^^^ wireInv p = 1 := by revert p; decide

/-- Settles O45: the bus is ready again after the first INVERT; the second toggles POL back and sends the bit as it was at the
start. -/
theorem twoInvertsRestorePolarity : Obligations.TwoInvertsRestorePolarity := by
  intro s hr
  have hpol : (afterInvert (afterInvert s)).pol = s.pol := toggle_toggle s.pol
  have hwire : (afterInvert (afterInvert s)).wire =
      s.wire ++ frame .command [wireInv (s.pol ^^^ 1)] ++ frame .command [wireInv s.pol] := by
    rw [afterInvert_wire, afterInvert_wire, afterInvert_pol, toggle_toggle]
  exact ⟨afterInvert s, afterInvert (afterInvert s), wireInv (s.pol ^^^ 1), wireInv s.pol, exec_invert_ready hr,
    exec_invert_ready (by rwa [afterInvert_busReady]), hpol, hwire, wireInv_toggle_xor s.pol⟩

end Sys2Proof.Machine

/-! Proofs: handler return (spec/60_exceptions.md R235). The last step of a handler is its own writes and then the shared return;
the marks follow from the stack invariant before and after the pop. -/

namespace Sys2Proof.Machine

theorem leaves_refl (s : State) : Leaves s s := ⟨id, fun r _ e => ⟨rfl, r.ctx, e⟩⟩

theorem returnFromHandler_gie {s : State} {r : Activation} {older : List Activation} (h : s.hs = r :: older) :
    s.returnFromHandler.gie = if s.par.irqEntryClearsGie then r.gieAtEntry else s.gie := by
  rw [State.returnFromHandler, h]

/-- R235: the last step of a handler writes its own record, its channel or request flag, and then returns. -/
theorem softStep_lastStep_returns {s : State} {t : Task} {rest : List Task} (hw : s.running.work = t :: rest)
    (hlast : t = .tmrother ∨ (∃ ch, t = .dlexp ch) ∨ (∃ ch, t = .pinHandler ch ∧ (s.chan ch).dph = .fin)) :
    ∃ u : State, s.softStep = u.returnFromHandler ∧ Leaves s u ∧ u.gie = s.gie ∧ u.par = s.par := by
  have htaken : Leaves s (s.setWork rest) := leaves_setRunning (leaves_refl s) _
  rcases hlast with rfl | ⟨ch, rfl⟩ | ⟨ch, rfl, hfin⟩
  · exact ⟨_, softStep_cons s hw, leaves_same htaken rfl rfl, setWork_gie s rest, setWork_par s rest⟩
  · exact ⟨_, softStep_cons s hw, leaves_setChan (leaves_setChan htaken _ _) _ _, by simp [State.disarm],
      by simp [State.disarm]⟩
  · exact ⟨_, softStep_pinFinish hw hfin, leaves_setRunning (leaves_setChan (leaves_refl s) _ _) _, by simp, by simp⟩

/-- R236, R238: where the newest record has been popped between two states that meet the stack invariant, its source is the one
that has left service, as no other record is of that source. -/
theorem inService_of_pop {s t : State} {r : Activation} (hs : s.stackInv) (ht : t.stackInv) (hpop : s.hs = r :: t.hs)
    (src : Source) : t.inService src = (s.inService src && decide (src ≠ r.source)) := by
  obtain ⟨hnodup, hmarks⟩ := hs
  obtain ⟨-, hmarks'⟩ := ht
  rw [hpop, List.map_cons] at hnodup hmarks
  have honce : r.source ∉ t.hs.map (·.source) := (List.nodup_cons.1 hnodup).1
  rw [Bool.eq_iff_iff, Bool.and_eq_true, decide_eq_true_iff, hmarks, hmarks', List.mem_cons]
  constructor
  · exact fun hmem => ⟨.inr hmem, fun he => honce (he ▸ hmem)⟩
  · exact fun ⟨hmem, hne⟩ => hmem.resolve_left hne

/-- Settles O49: each handler's last step returns (`softStep_lastStep_returns`), which pops the record; the step keeps the stack
invariant, and so the popped record's source is the one whose mark is gone. -/
theorem handlerReturnPopsTheRecord : Obligations.HandlerReturnPopsTheRecord := by
  intro s r older t hinv hhs hwork hlast
  have hw : s.running.work = [t] := by rw [State.running, hhs, hwork]
  obtain ⟨u, hstep, ⟨-, hleft⟩, hgie, hpar⟩ := softStep_lastStep_returns hw hlast
  obtain ⟨hmain, c, huhs⟩ := hleft r older hhs
  have hpop : s.softStep.hs = older := by rw [hstep, returnFromHandler_hs, huhs, List.tail_cons]
  refine ⟨hpop, ?main, ?gie, inService_of_pop hinv (stackInv_softStep hinv) (by rw [hhs, hpop])⟩
  case main => rw [hstep, returnFromHandler_main, hmain]
  case gie => rw [hstep, returnFromHandler_gie huhs, hpar, hgie]

end Sys2Proof.Machine

/-! Proofs: reset (spec/70_reset_and_hazards.md R260, R261, R271). A channel after reset is `Chan.reset`, whatever the reset table
leaves unspecified; from there the edge detector passes over a release and notices the next press. -/

namespace Sys2Proof.Machine

/-! ## The reset state -/

section
variable (p : Params) (u : ResetDraw) (b1 b2 : Bool) (port : List Move) (draws : Nat)

theorem chan_resetWith (ch : Channel) :
    ∃ btn dlExp, (State.resetWith p u b1 b2 port draws).chan ch = Chan.reset btn dlExp := by
  cases ch
  · exact ⟨b1, u.dlExp1, rfl⟩
  · exact ⟨b2, u.dlExp2, rfl⟩

theorem pending_resetWith (src : Source) : (State.resetWith p u b1 b2 port draws).pending src = false := by
  cases src <;> rfl

/-- R261: the registers have their values by construction, each channel is `Chan.reset`, nothing is pending, and GIE = 0 masks
the rest. -/
theorem atReset_resetWith : (State.resetWith p u b1 b2 port draws).atReset := by
  refine ⟨rfl, rfl, rfl, rfl, rfl, rfl, rfl, rfl, rfl, rfl, rfl, rfl, rfl, rfl, rfl, fun ch => ?channel, fun src => ?source⟩
  case channel =>
    obtain ⟨btn, dlExp, hchan⟩ := chan_resetWith p u b1 b2 port draws ch
    rw [hchan]
    exact ⟨rfl, rfl, rfl, rfl, rfl, rfl, rfl, rfl, rfl⟩
  case source => exact ⟨pending_resetWith p u b1 b2 port draws src, deliverable_of_masked rfl src⟩

end

/-- Settles O1: `State.reset` is the reset state for one choice of the unspecified values. -/
theorem resetLeavesTheResetTable : Obligations.ResetLeavesTheResetTable :=
  ⟨atReset_resetWith, atReset_resetWith _ _ _ _ _ _⟩

/-! ## A button held at reset -/

theorem inService_pinSource (s : State) (ch : Channel) : s.inService (pinSource ch) = (s.chan ch).insvcPin := by
  cases ch <;> rfl

theorem chan_setButton_same (s : State) (ch : Channel) (level : Bool) : (s.setButton ch level).chan ch =
    { s.chan ch with
      btn := level
      pinIfg := (s.chan ch).pinIfg || watchedEdge (s.chan ch).btn level (s.chan ch).edgeSel } :=
  chan_setChan_same _ _ _

/-- R271: a channel watches for a press after reset, so a release only moves its pin. -/
theorem chan_release_of_reset {s : State} {ch : Channel} {d : Nat} (h : s.chan ch = Chan.reset false d) :
    (s.setButton ch true).chan ch = Chan.reset true d := by
  rw [chan_setButton_same, h]; rfl

/-- R271: a press of a channel released since reset moves its pin and sets its flag. -/
theorem chan_press_of_reset {s : State} {ch : Channel} {d : Nat} (h : s.chan ch = Chan.reset true d) :
    (s.setButton ch false).chan ch = { Chan.reset false d with pinIfg := true } := by
  rw [chan_setButton_same, h]; rfl

/-- Settles O19: the channel goes from reset and held, through reset and released, to pressed with only its flag set. -/
theorem buttonHeldAtResetIsLost : Obligations.ButtonHeldAtResetIsLost := by
  intro p u ch b port draws s
  obtain ⟨d, hheld⟩ : ∃ d, s.chan ch = Chan.reset false d := by
    cases ch
    · exact ⟨u.dlExp1, rfl⟩
    · exact ⟨u.dlExp2, rfl⟩
  have hreleased := chan_release_of_reset hheld
  have hpressed := chan_press_of_reset hreleased
  refine ⟨by rw [hheld]; rfl, by rw [hheld]; rfl, s.setButton ch true, (s.setButton ch true).setButton ch false,
    exec_btnset ch true s, by rw [hreleased]; rfl, exec_btnset ch false _, ?_⟩
  rw [inService_pinSource, hpressed]
  exact ⟨rfl, rfl, rfl, rfl, rfl⟩

end Sys2Proof.Machine

/-! Proofs: the invariants of the machine (spec/10_state.md R52, spec/20_memory.md R64, R71, spec/40_debounce.md R126,
spec/60_exceptions.md R236, R238). Each stands after a reset, and each agent's step keeps it, so that every step does
(`step_of_kept`). -/

namespace Sys2Proof.Machine

/-- A property kept whatever move comes is kept by every step. -/
theorem step_of_kept {P : State → Prop} (k : Kept (fun _ => True) P) {s s' : State} (h : P s) (hx : step s = .next s') :
    P s' :=
  k.step s s' (fun _ _ => trivial) h hx

/-! ## The reset states -/

section
variable (p : Params) (u : ResetDraw) (b1 b2 : Bool) (port : List Move) (draws : Nat)

theorem frameInv_resetWith : (State.resetWith p u b1 b2 port draws).frameInv := ⟨rfl, rfl, rfl⟩

theorem armedTogether_reset (btn : Bool) (dlExp : Nat) : (Chan.reset btn dlExp).armedTogether :=
  ⟨rfl, rfl, fun h => absurd h Bool.false_ne_true, fun h => by cases h⟩

theorem chanInv_resetWith : (State.resetWith p u b1 b2 port draws).chanInv :=
  ⟨armedTogether_reset b1 u.dlExp1, armedTogether_reset b2 u.dlExp2⟩

theorem stackInv_resetWith : (State.resetWith p u b1 b2 port draws).stackInv := by
  refine ⟨List.nodup_nil, fun src => ?_⟩
  cases src <;> simp [State.resetWith, State.inService, Chan.reset]

theorem maskInv_resetWith : (State.resetWith p u b1 b2 port draws).maskInv :=
  ⟨fun h => absurd rfl h, List.forall_mem_nil _, List.forall_mem_nil _⟩

end

/-! ## The wire -/

theorem frameInv_kept : Kept (fun _ => True) State.frameInv where
  port _ _ h := h
  serAccept _ h := frameInv_serAccept h
  serShift _ h := frameInv_serShift h
  softStep _ h := frameInv_softStep h
  enter _ src _ _ h := frameInv_enter h src
  call _ t _ _ h := frameInv_pushTasks h [t]
  tick _ _ h := h
  button _ ch _ _ h := frameInv_setChan h ch _
  refuse _ h := h
  otherRequest _ _ h := h
  gie _ _ _ _ h := h
  backlight _ _ _ h := h
  reset _ _ _ := frameInv_resetWith _ _ _ _ _ _

/-- Settles O4: each agent's step keeps the frame invariant. -/
theorem stepKeepsWholeFrames : Obligations.StepKeepsWholeFrames := by
  intro s s' h hstep
  exact step_of_kept frameInv_kept h hstep

/-! ## The channels -/

/-- BTNSET writes a pin and its flag, of which the channel invariant does not speak. -/
theorem chanInv_setButton {s : State} (h : s.chanInv) (ch : Channel) (level : Bool) : (s.setButton ch level).chanInv :=
  chanInv_setChan h ch (armedTogether_congr (c := s.chan ch) rfl rfl rfl rfl (.inl rfl) (chanInv_chan h ch))

theorem chanInv_serAccept {s : State} (h : s.chanInv) : s.serAccept.chanInv := by
  unfold State.serAccept
  split <;> exact h

theorem chanInv_serShift {s : State} (h : s.chanInv) : s.serShift.chanInv := by
  unfold State.serShift
  split <;> exact h

theorem chanInv_kept : Kept (fun _ => True) State.chanInv where
  port _ _ h := h
  serAccept _ h := chanInv_serAccept h
  serShift _ h := chanInv_serShift h
  softStep _ h := chanInv_softStep h
  enter _ src _ _ h := chanInv_enter h src
  call s _ _ _ h := chanInv_congr (pushTasks_ch1 s _) (pushTasks_ch2 s _) h
  tick _ _ h := chanInv_tick h
  button _ ch level _ h := chanInv_setButton h ch level
  refuse _ h := h
  otherRequest _ _ h := h
  gie _ _ _ _ h := h
  backlight _ _ _ h := h
  reset _ _ _ := chanInv_resetWith _ _ _ _ _ _

/-- Settles O5: each agent's step keeps the channel invariant, in the middle of a handler too. -/
theorem stepKeepsChannelsArmedTogether : Obligations.StepKeepsChannelsArmedTogether := by
  intro s s' h hstep
  exact step_of_kept chanInv_kept h hstep

/-! ## The stack -/

theorem stackInv_serAccept {s : State} (h : s.stackInv) : s.serAccept.stackInv := by
  unfold State.serAccept
  split
  · exact stackInv_same rfl rfl rfl rfl rfl h
  · exact h

theorem stackInv_serShift {s : State} (h : s.stackInv) : s.serShift.stackInv := by
  unfold State.serShift
  split
  · exact stackInv_same rfl rfl rfl rfl rfl h
  · exact h

theorem stackInv_kept : Kept (fun _ => True) State.stackInv where
  port _ _ h := stackInv_same rfl rfl rfl rfl rfl h
  serAccept _ h := stackInv_serAccept h
  serShift _ h := stackInv_serShift h
  softStep _ h := stackInv_softStep h
  enter _ _ hn _ h := stackInv_enter h hn
  call _ t _ _ h := stackInv_pushTasks h [t]
  tick _ _ h := stackInv_same rfl rfl rfl rfl rfl h
  button _ ch _ _ h := stackInv_setChan h ch rfl rfl
  refuse _ h := stackInv_same rfl rfl rfl rfl rfl h
  otherRequest _ _ h := stackInv_same rfl rfl rfl rfl rfl h
  gie _ _ _ _ h := stackInv_same rfl rfl rfl rfl rfl h
  backlight _ _ _ h := stackInv_same rfl rfl rfl rfl rfl h
  reset _ _ _ := stackInv_resetWith _ _ _ _ _ _

theorem mem_allSources (src : Source) : src ∈ allSources := by cases src <;> decide

/-- R238: no source stands twice in HS, and there are five sources. -/
theorem hs_length_le_of_stackInv {s : State} (h : s.stackInv) : s.hs.length ≤ 5 := by
  have hsub : s.hs.map (·.source) ⊆ allSources := fun src _ => mem_allSources src
  have hle : (s.hs.map (·.source)).length ≤ allSources.length := (List.subperm_of_subset h.1 hsub).length_le
  rwa [List.length_map] at hle

/-- Settles O6: each agent's step keeps the stack invariant, which bounds the records by the number of sources. -/
theorem stepKeepsSourcesOnceInTheStack : Obligations.StepKeepsSourcesOnceInTheStack := by
  intro s s' h hstep
  have h' : s'.stackInv := step_of_kept stackInv_kept h hstep
  exact ⟨h', hs_length_le_of_stackInv h'⟩

/-! ## The critical section -/

/-- What the mask invariant reads of the state. -/
theorem maskInv_congr {s t : State} (h1 : t.xph = s.xph) (h2 : t.gie = s.gie) (h3 : t.hs = s.hs) (h4 : t.main = s.main)
    (h : s.maskInv) : t.maskInv := by
  have hrun : t.running = s.running := by rw [State.running, State.running, h3, h4]
  simpa [State.maskInv, hrun, h1, h2, h3, h4] using h

theorem maskInv_serAccept {s : State} (h : s.maskInv) : s.serAccept.maskInv := by
  unfold State.serAccept
  split
  · exact maskInv_congr rfl rfl rfl rfl h
  · exact h

theorem maskInv_serShift {s : State} (h : s.maskInv) : s.serShift.maskInv := by
  unfold State.serShift
  split
  · exact maskInv_congr rfl rfl rfl rfl h
  · exact h

/-- R233: nothing is entered inside a transfer, where GIE is 0. -/
theorem xph_idle_of_gie {s : State} (h : s.maskInv) (hg : s.gie = true) : s.xph = .idle := by
  by_contra hx
  rw [(h.1 hx).1] at hg
  exact Bool.false_ne_true hg

theorem maskInv_enter {s : State} (h : s.maskInv) (src : Source) (hx : s.xph = .idle) : (s.enter src).maskInv :=
  (maskInv_iff _).2 ⟨fun hne => absurd ((enter_xph s src).trans hx) hne, workOk_enter ((maskInv_iff s).1 h).2 src⟩

theorem maskInv_call {s : State} (h : s.maskInv) {t : Task} (ht : t.isHandler = false) : (s.pushTasks [t]).maskInv := by
  refine (maskInv_iff _).2 ⟨fun hx => ?_, workOk_pushTasks ((maskInv_iff s).1 h).2 (by simpa using ht)⟩
  obtain ⟨hg, hf⟩ := h.1 (by simpa using hx)
  exact ⟨by simpa using hg, by simpa using Or.inr hf⟩

/-- R75: MAIN is not idle inside a transfer. -/
theorem maskInv_writeGie {s : State} (h : s.maskInv) (v : Bool) (hi : s.mainIdle = true) :
    ({ s with gie := v } : State).maskInv := by
  refine ⟨fun hx => ?_, h.2⟩
  have hbusy : s.mainIdle = false := mainIdle_of_work (h.1 hx).2
  rw [hi] at hbusy
  cases hbusy

theorem maskInv_setButton {s : State} (h : s.maskInv) (ch : Channel) (level : Bool) : (s.setButton ch level).maskInv :=
  maskInv_congr (setChan_xph _ ch _) (setChan_gie _ ch _) (setChan_hs _ ch _) (setChan_main _ ch _) h

theorem maskInv_kept : Kept (fun _ => True) State.maskInv where
  port _ _ h := h
  serAccept _ h := maskInv_serAccept h
  serShift _ h := maskInv_serShift h
  softStep _ h := maskInv_softStep h
  enter _ src _ hmay h := maskInv_enter h src (hmay.elim (xph_idle_of_gie h) (·.1))
  call _ _ ht _ h := maskInv_call h ht
  tick _ _ h := h
  button _ ch level _ h := maskInv_setButton h ch level
  refuse _ h := h
  otherRequest _ _ h := h
  gie _ v _ hi h := maskInv_writeGie h v hi
  backlight _ _ _ h := h
  reset _ _ _ := maskInv_resetWith _ _ _ _ _ _

/-- Settles O7: each agent's step keeps the mask invariant. -/
theorem stepKeepsTransfersMasked : Obligations.StepKeepsTransfersMasked := by
  intro s s' h hstep
  exact step_of_kept maskInv_kept h hstep

/-! ## The ranges -/

theorem cnt_legal_lt (p : Params) (u : ResetDraw) : (u.legal p).cnt < 2 ^ p.cntWidth := Nat.mod_lt _ (Nat.two_pow_pos _)

theorem dlExp1_legal_lt (p : Params) (u : ResetDraw) : (u.legal p).dlExp1 < 2 ^ p.cntWidth := Nat.mod_lt _ (Nat.two_pow_pos _)

theorem dlExp2_legal_lt (p : Params) (u : ResetDraw) : (u.legal p).dlExp2 < 2 ^ p.cntWidth := Nat.mod_lt _ (Nat.two_pow_pos _)

/-- R6: what the ranges of the parameters say, by name. -/
theorem wf_iff (p : Params) :
    p.wf = true ↔ 0 < p.cntWidth ∧ 1 ≤ p.fixedDelay ∧ p.fixedDelay < 2 ^ p.cntWidth ∧ p.font.length = fontBytes ∧
      p.valWidth ≠ some 0 ∧ p.holdsValue p.counterInit = true ∧ p.holdsValue p.counterStep = true ∧
      p.renderPage.toNat ≤ glyphPageMax ∧ p.renderCol.toNat ≤ renderColMax := by
  simp only [Params.wf, Bool.and_eq_true, decide_eq_true_eq, and_assoc]

theorem holdsValue_counterInit {p : Params} (h : p.wf = true) : p.holdsValue p.counterInit = true := by
  obtain ⟨-, -, -, -, -, hinit, -⟩ := (wf_iff p).1 h
  exact hinit

theorem rangeInv_resetWith {p : Params} (hp : p.wf = true) (u : ResetDraw) (b1 b2 : Bool) (port : List Move) (draws : Nat) :
    (State.resetWith p (u.legal p) b1 b2 port draws).rangeInv :=
  ⟨hp, cnt_legal_lt p u, dlExp1_legal_lt p u, dlExp2_legal_lt p u, holdsValue_counterInit hp⟩

theorem rangeInv_serAccept {s : State} (h : s.rangeInv) : s.serAccept.rangeInv := by
  unfold State.serAccept
  split <;> exact h

theorem rangeInv_serShift {s : State} (h : s.rangeInv) : s.serShift.rangeInv := by
  unfold State.serShift
  split <;> exact h

theorem rangeInv_enter {s : State} (h : s.rangeInv) (src : Source) : (s.enter src).rangeInv :=
  rangeInv_congr (enter_par s src) (enter_cnt s src) (enter_ch1_dlExp s src) (enter_ch2_dlExp s src) (enter_counter s src) h

theorem rangeInv_pushTasks {s : State} (h : s.rangeInv) (ts : List Task) : (s.pushTasks ts).rangeInv :=
  rangeInv_congr (by simp) (by simp) (by simp) (by simp) (by simp) h

theorem rangeInv_kept : Kept (fun _ => True) State.rangeInv where
  port _ _ h := h
  serAccept _ h := rangeInv_serAccept h
  serShift _ h := rangeInv_serShift h
  softStep _ h := rangeInv_softStep h
  enter _ src _ _ h := rangeInv_enter h src
  call _ t _ _ h := rangeInv_pushTasks h [t]
  tick _ _ h := rangeInv_tick h
  button _ ch _ _ h := rangeInv_setChan h ch (rangeInv_chan h ch)
  refuse _ h := h
  otherRequest _ _ h := h
  gie _ _ _ _ h := h
  backlight _ _ _ h := h
  reset _ _ := fun ⟨hwf, _⟩ => rangeInv_resetWith hwf _ _ _ _ _

/-- Settles O8: each agent's step keeps the ranges; reset takes its unspecified values within them. -/
theorem stepKeepsRegisterRanges : Obligations.StepKeepsRegisterRanges := by
  intro s s' h hstep
  exact step_of_kept rangeInv_kept h hstep

/-! ## After reset -/

theorem params_wf : Config.params.wf = true := legal_wf _

/-- Settles O3: `State.reset` is the reset state for one choice of the unspecified values, and its HS is empty. -/
theorem invariantsStandAfterReset : Obligations.InvariantsStandAfterReset := by
  exact ⟨frameInv_resetWith _ _ _ _ _ _, chanInv_resetWith _ _ _ _ _ _, stackInv_resetWith _ _ _ _ _ _,
    maskInv_resetWith _ _ _ _ _ _, rangeInv_resetWith params_wf _ _ _ _ _, .inl rfl, rfl, rfl⟩

theorem xlen_legal_ge (p : Params) (u : ResetDraw) : 1 ≤ (u.legal p).xlen := Nat.succ_pos _

theorem xlen_legal_le (p : Params) (u : ResetDraw) : (u.legal p).xlen ≤ 6 := Nat.mod_lt u.xlen (by decide)

theorem xidx_legal_le (p : Params) (u : ResetDraw) : (u.legal p).xidx ≤ (u.legal p).xlen :=
  Nat.le_of_lt_succ (Nat.mod_lt u.xidx (Nat.succ_pos _))

/-- The reset event reads the parameters, the pins, the moves to come and the count of draws, and nothing else. -/
theorem resetEvent_congr {s t : State} (hp : t.par = s.par) (h1 : t.ch1.btn = s.ch1.btn) (h2 : t.ch2.btn = s.ch2.btn)
    (hm : t.port = s.port) (hd : t.draws = s.draws) : t.resetEvent = s.resetEvent := by
  rw [State.resetEvent, State.resetEvent, hp, h1, h2, hm, hd]

/-- Settles O2: the reset event is a reset state whose unspecified values are in their ranges. -/
theorem resetForgetsTheRun : Obligations.ResetForgetsTheRun := by
  intro s t
  exact ⟨atReset_resetWith _ _ _ _ _ _, cnt_legal_lt _ _, dlExp1_legal_lt _ _, dlExp2_legal_lt _ _, xlen_legal_ge s.par _,
    xlen_legal_le s.par _, xidx_legal_le s.par _, resetEvent_congr⟩

/-! ## What nothing writes, and what is only added to -/

theorem grew_gie (s : State) (v : Bool) : Grew s { s with gie := v } := grew_same rfl rfl rfl rfl rfl rfl rfl

/-- A property that survives where the parameters, the backlight line and CNT stay and the records grow (`Grew`) is kept by
every step, if the three moves that write more keep it. -/
theorem kept_of_grew {A : Move → Prop} {P : State → Prop} (hgrew : ∀ s t, Grew s t → P s → P t)
    (htick : mayCome A .tick → ∀ s, P s → P s.tick)
    (hbacklight : ∀ s v, A (.setBacklight v) → P s → P { s with bl := v })
    (hreset : A .reset → ∀ s, P s → P s.resetEvent) : Kept A P where
  port s _ := hgrew s _ (grew_same rfl rfl rfl rfl rfl rfl rfl)
  serAccept s := hgrew s _ (grew_serAccept s)
  serShift s := hgrew s _ (grew_serShift s)
  softStep s := hgrew s _ (grew_softStep s)
  enter s src _ _ := hgrew s _ (grew_enter s src)
  call s t _ _ := hgrew s _ (grew_pushTasks s [t])
  tick := htick
  button s ch _ _ := hgrew s _ (grew_setChan s ch _)
  refuse s := hgrew s _ (grew_refuse s _)
  otherRequest _ s := hgrew s _ (grew_same rfl rfl rfl rfl rfl rfl rfl)
  gie s v _ _ := hgrew s _ (grew_gie s v)
  backlight := hbacklight
  reset := hreset

/-- Settles O17: of the moves that may come only TICK writes CNT. -/
theorem counterClockIsWrittenByTickOnly : Obligations.CounterClockIsWrittenByTickOnly := by
  intro s s' hreset htick hstep
  have k : Kept (fun m => s.port.head? = some m) (fun t => t.cnt = s.cnt) :=
    kept_of_grew (fun _ _ hg h => hg.cnt.trans h)
      (fun ⟨r, hr, hd⟩ => absurd hd (htick r hr)) (fun _ _ _ h => h) (fun hr => absurd hr hreset)
  exact k.step s s' (fun _ hm => hm) rfl hstep

/-- Settles O52: no agent writes a parameter and reset takes them over; BL is written by the two moves that are left out. -/
theorem parametersAndBacklightAreNotWritten : Obligations.ParametersAndBacklightAreNotWritten := by
  intro s s' hstep
  constructor
  · have k : Kept (fun _ => True) (fun t => t.par = s.par) :=
      kept_of_grew (fun _ _ hg h => hg.par.trans h) (fun _ _ h => h) (fun _ _ _ h => h) (fun _ _ h => h)
    exact step_of_kept k rfl hstep
  · intro hreset hbl
    have k : Kept (fun m => s.port.head? = some m) (fun t => t.bl = s.bl) :=
      kept_of_grew (fun _ _ hg h => hg.bl.trans h) (fun _ _ h => h) (fun _ v hv => absurd hv (hbl v))
        (fun hr => absurd hr hreset)
    exact k.step s s' (fun _ hm => hm) rfl hstep

/-- The records of `t` hold what those of `s` held. -/
def State.recordsExtend (s t : State) : Prop :=
  s.wire <+: t.wire ∧ s.actlog <+: t.actlog ∧ s.reasons <+: t.reasons ∧ (s.refused = true → t.refused = true)

theorem recordsExtend_of_grew {s t u : State} (hg : Grew t u) (h : s.recordsExtend t) : s.recordsExtend u := by
  obtain ⟨hw, ha, hr, hf⟩ := h
  exact ⟨hw.trans hg.wire, ha.trans hg.actlog, hr.trans hg.reasons, fun e => hg.refused (hf e)⟩

/-- Settles O53: every agent's step adds to the records or leaves them; reset is left out. -/
theorem recordsOnlyGrow : Obligations.RecordsOnlyGrow := by
  intro s s' hreset hstep
  have k : Kept (fun m => s.port.head? = some m) s.recordsExtend :=
    kept_of_grew (fun _ _ => recordsExtend_of_grew) (fun _ _ h => h) (fun _ _ _ h => h) (fun hr => absurd hr hreset)
  exact k.step s s' (fun _ hm => hm) ⟨List.prefix_rfl, List.prefix_rfl, List.prefix_rfl, id⟩ hstep

end Sys2Proof.Machine

/-! Proofs: handlers do not nest where entry clears GIE (spec/60_exceptions.md R234, R235, R238). GIE stays 0 from the entry of a
handler to its return, also across the transfers inside it, and nothing is delivered while GIE is 0. -/

namespace Sys2Proof.Machine

/-- GIE is 0, and a transfer in flight gives 0 back. -/
def State.gieStaysZero (s : State) : Prop := s.gie = false ∧ (s.xph ≠ .idle → s.savedGie = false)

theorem neverNested_iff (s : State) :
    s.neverNested ↔ s.hs = [] ∨ ∃ r, s.hs = [r] ∧ r.gieAtEntry = true ∧ s.gieStaysZero := Iff.rfl

theorem gieStaysZero_of_sameMask {s t : State} (hm : SameMask s t) (h : s.gieStaysZero) : t.gieStaysZero := by
  obtain ⟨hg, hsaved⟩ := h
  exact ⟨hm.gie.trans hg, fun hx => hm.savedGie.trans (hsaved (by rwa [← hm.xph]))⟩

theorem neverNested_of_sameMask {s t : State} (hm : SameMask s t) (hhs : t.hs = s.hs) (h : s.neverNested) : t.neverNested := by
  rw [neverNested_iff, hhs]
  exact h.imp_right fun ⟨r, hr, hentry, hz⟩ => ⟨r, hr, hentry, gieStaysZero_of_sameMask hm hz⟩

theorem serAccept_hs (s : State) : s.serAccept.hs = s.hs := by
  unfold State.serAccept
  split <;> rfl

theorem serShift_hs (s : State) : s.serShift.hs = s.hs := by
  unfold State.serShift
  split <;> rfl

/-- A step of an operation writes GIE with 0 only: the start of a transfer clears it, and phase 8 gives back the 0 saved. -/
theorem gieStaysZero_perform_operation {s : State} (h : s.gieStaysZero) {t : Task} (ht : t.isHandler = false) :
    (s.perform t).gieStaysZero := by
  have hmasked : Masked s s := ⟨h.1, h.2, rfl, rfl, [], List.forall_mem_nil _, rfl⟩
  have hafter := masked_perform hmasked t ht
  exact ⟨hafter.gie, hafter.sv⟩

/-- A handler's own step writes none of the critical section, or it is the last one and returns. -/
theorem perform_handler_mask {s : State} {t : Task} (ht : t.isHandler = true) :
    SameMask s (s.perform t) ∨ (s.perform t).hs = s.hs.tail := by
  have push : ∀ (u : State) ts, SameMask s u → SameMask s (u.pushTasks ts) := fun u ts hu =>
    ⟨(pushTasks_xph u ts).trans hu.xph, (pushTasks_gie u ts).trans hu.gie, (pushTasks_savedGie u ts).trans hu.savedGie⟩
  have chan : ∀ c d, SameMask s (s.setChan c d) := fun c d => ⟨setChan_xph s c d, setChan_gie s c d, setChan_savedGie s c d⟩
  cases t <;> simp only [State.perform]
  case pinHandler ch =>
    cases hd : (s.chan ch).dph with
    | idle => rw [pinStep_idle hd]; exact .inl (push _ _ (chan _ _))
    | act => rw [pinStep_act hd]; exact .inl (push _ _ ⟨rfl, rfl, rfl⟩)
    | fin => rw [pinStep_fin hd, State.pinFinish, returnFromHandler_hs, setChan_hs]; exact .inr rfl
  case actArm ch => rw [suppressAndArm_eq]; exact .inl (push _ _ (chan _ _))
  case dlexp ch => simp [State.deadlineExpired, State.disarm, returnFromHandler_hs]
  case tmrother => exact .inr (returnFromHandler_hs _)
  all_goals exact absurd ht Bool.false_ne_true

/-- Inside a handler, the running context's step returns from it or leaves GIE at 0. -/
theorem softStep_gieStaysZero {s : State} {r : Activation} (hhs : s.hs = [r]) (h : s.gieStaysZero) :
    s.softStep.hs = [] ∨ s.softStep.gieStaysZero := by
  cases hw : s.running.work with
  | nil =>
    have hstay : s.softStep = s := by rw [State.softStep, hw]
    exact .inr (by rwa [hstay])
  | cons t rest =>
    have hz : (s.setWork rest).gieStaysZero :=
      gieStaysZero_of_sameMask ⟨setWork_xph s rest, setWork_gie s rest, setWork_savedGie s rest⟩ h
    rw [softStep_cons s hw]
    cases ht : t.isHandler with
    | false => exact .inr (gieStaysZero_perform_operation hz ht)
    | true =>
      rcases perform_handler_mask (s := s.setWork rest) ht with hsame | hret
      · exact .inr (gieStaysZero_of_sameMask hsame hz)
      · refine .inl (List.eq_nil_of_length_eq_zero ?_)
        rw [hret, List.length_tail, setWork_hs_length, hhs]
        rfl

theorem neverNested_softStep {s : State} (h : s.neverNested) : s.softStep.neverNested := by
  obtain ⟨hmain, hhandler⟩ := softStep_mayReturn s
  rcases h with hnil | ⟨r, hr, hentry, hz⟩
  · exact .inl (hmain hnil)
  · rcases (hhandler r [] hr).2 with hret | ⟨c, hc⟩
    · exact .inl hret
    · rcases softStep_gieStaysZero hr hz with hret | hz'
      · exact .inl hret
      · exact .inr ⟨{ r with ctx := c }, hc, hentry, hz'⟩

/-- R234: an entry with GIE = 1 is the entry of the only handler, and clears GIE. -/
theorem neverNested_enter {s : State} (h : s.neverNested) (hp : s.par.irqEntryClearsGie = true) (hm : s.maskInv)
    (hg : s.gie = true) (src : Source) : (s.enter src).neverNested := by
  rcases h with hnil | ⟨r, -, -, hzero, -⟩
  · have hx : (s.enter src).xph = .idle := (enter_xph s src).trans (xph_idle_of_gie hm hg)
    refine .inr ⟨{ source := src, gieAtEntry := s.gie, ctx := Ctx.fresh [handlerTask src] s.nextDraw.locals }, ?_, hg, ?_,
      fun hne => absurd hx hne⟩
    · simp [State.enter, hnil]
    · simp [State.enter, hp]
  · rw [hg] at hzero
    cases hzero

theorem hs_of_mainIdle {s : State} (h : s.mainIdle = true) : s.hs = [] := by
  simp only [State.mainIdle, Bool.and_eq_true, List.isEmpty_iff] at h
  exact h.1

/-- Entry clears GIE, transfers are masked, and handlers do not nest. -/
structure State.nestingInv (s : State) : Prop where
  clears : s.par.irqEntryClearsGie = true
  masked : s.maskInv
  unnested : s.neverNested

theorem neverNested_pushTasks {s : State} (h : s.neverNested) (ts : List Task) : (s.pushTasks ts).neverNested := by
  rcases h with hnil | ⟨r, hr, hentry, hz⟩
  · exact .inl (List.eq_nil_of_length_eq_zero (by rw [pushTasks_hs_length, hnil]; rfl))
  · refine .inr ⟨{ r with ctx := (s.pushTasks ts).running }, ?_, hentry, gieStaysZero_of_sameMask (sameMask_pushTasks s ts) hz⟩
    rw [running_pushTasks]
    simp [State.pushTasks, State.setWork, State.setRunning, hr]

/-- Nothing writes the parameters, and every move keeps the mask invariant, so that the stack is what is left to show. -/
theorem nestingInv_kept : Kept (fun m => ∀ r, m ≠ .request r) State.nestingInv where
  port _ _ h := ⟨h.clears, h.masked, h.unnested⟩
  serAccept s h := ⟨(grew_serAccept s).par ▸ h.clears, maskInv_serAccept h.masked,
    neverNested_of_sameMask (sameMask_serAccept s) (serAccept_hs s) h.unnested⟩
  serShift s h := ⟨(grew_serShift s).par ▸ h.clears, maskInv_serShift h.masked,
    neverNested_of_sameMask (sameMask_serShift s) (serShift_hs s) h.unnested⟩
  softStep s h := ⟨(grew_softStep s).par ▸ h.clears, maskInv_softStep h.masked, neverNested_softStep h.unnested⟩
  enter s src _ hmay h := by
    have hg : s.gie = true := hmay.resolve_right fun ⟨_, r, hr⟩ => hr r rfl
    exact ⟨(enter_par s src).symm ▸ h.clears, maskInv_enter h.masked src (xph_idle_of_gie h.masked hg),
      neverNested_enter h.unnested h.clears h.masked hg src⟩
  call s t ht _ h :=
    ⟨(pushTasks_par s [t]).symm ▸ h.clears, maskInv_call h.masked ht, neverNested_pushTasks h.unnested [t]⟩
  tick _ _ h := ⟨h.clears, h.masked, h.unnested⟩
  button s ch level _ h := ⟨(setChan_par s ch _).symm ▸ h.clears, maskInv_setButton h.masked ch level,
    neverNested_of_sameMask (sameMask_setButton s ch level) (setChan_hs _ ch _) h.unnested⟩
  refuse _ h := ⟨h.clears, h.masked, h.unnested⟩
  otherRequest _ _ h := ⟨h.clears, h.masked, h.unnested⟩
  gie s v _ hi h := ⟨h.clears, maskInv_writeGie h.masked v hi, .inl (hs_of_mainIdle hi)⟩
  backlight _ _ _ h := ⟨h.clears, h.masked, h.unnested⟩
  reset _ _ h := ⟨h.clears, maskInv_resetWith _ _ _ _ _ _, .inl rfl⟩

theorem hs_length_le_of_neverNested {s : State} (h : s.neverNested) : s.hs.length ≤ 1 := by
  rcases h with hnil | ⟨r, hr, -⟩
  · rw [hnil]; exact Nat.zero_le 1
  · rw [hr]; rfl

/-- Settles O9: the nesting invariant is kept by every move but a request to the core layer. -/
theorem handlersNeverNestWhenEntryClearsGie : Obligations.HandlersNeverNestWhenEntryClearsGie := by
  intro s s' hp hm hn hrequest hstep
  have h' := nestingInv_kept.step s s' (fun m hmem r hr => hrequest r (hr ▸ hmem)) ⟨hp, hm, hn⟩ hstep
  exact ⟨h'.unnested, hs_length_le_of_neverNested h'.unnested⟩

end Sys2Proof.Machine

/-! Proofs: the encoding (spec/30_encoding.md R92 to R99). An instruction's record is read back field by field, and its selector or
wire byte leads the decoder to its constructor. -/

namespace Sys2Proof

/-- A record in the space of table words whose selector is below 0x10 is read by its selector. -/
theorem decode_selector {r : Record} (hspace : r.space = 0) (hsel : r.sel.toNat < 0x10) :
    decode r.toBytes = .instr (decodeSelector r) := by
  rw [decode, ofBytes_toBytes]
  simp [hspace, decodeTableByte, hsel]

/-- A record in the space of wire command bytes is read by its byte's format. -/
theorem decode_command {b : Byte} {i : Instr} (h : decodeCommandByte b = some i) :
    decode (Record.blank b 1).toBytes = .instr i := by
  rw [decode, ofBytes_toBytes]
  simp [Record.blank, h]

theorem decode_data (d : Byte) : decode (Record.blank d 2).toBytes = .instr (.wData d) := rfl

/-- Settles O10, a case per row of the table: the events and operations by their selector and fields, the wire bytes by their
format. -/
theorem decodeOfEncodeIsTheInstruction : Obligations.DecodeOfEncodeIsTheInstruction := by
  intro i
  cases i with
  | pinchg1 => exact decode_selector rfl (by decide)
  | pinchg2 => exact decode_selector rfl (by decide)
  | dlexp1 => exact decode_selector rfl (by decide)
  | dlexp2 => exact decode_selector rfl (by decide)
  | tmrother => exact decode_selector rfl (by decide)
  | tick => exact decode_selector rfl (by decide)
  | reserved7 => exact decode_selector rfl (by decide)
  | invert => exact decode_selector rfl (by decide)
  | cntstep => exact decode_selector rfl (by decide)
  | reservedEF low => cases low <;> exact decode_selector rfl (by decide)
  | btnset ch level =>
    refine (decode_selector rfl (by show (6 : Byte).toNat < 16; decide)).trans ?_
    simp [decodeSelector, encodeRecord, Record.blank, Record.chsel, Record.level, flagsByte_chsel, flagsByte_level]
  | xfer mode len b =>
    refine (decode_selector rfl (by show (8 : Byte).toNat < 16; decide)).trans ?_
    simp [decodeSelector, encodeRecord, Record.blank, Record.mode, Record.len, flagsByte_mode, flagsByte_len]
  | setpos page col =>
    refine (decode_selector rfl (by show (9 : Byte).toNat < 16; decide)).trans ?_
    simp [decodeSelector, encodeRecord, Record.blank, Record.page, nibble_low]
  | glyph idx page col =>
    refine (decode_selector rfl (by show (10 : Byte).toNat < 16; decide)).trans ?_
    simp [decodeSelector, encodeRecord, Record.blank, Record.page, Record.idx, nibble_low, nibble_high]
  | render val page col =>
    refine (decode_selector rfl (by show (11 : Byte).toNat < 16; decide)).trans ?_
    simp [decodeSelector, encodeRecord, Record.blank, Record.page, nibble_low, intToBytes_value]
  | wColhi c => exact decode_command (decode_wireColhi c)
  | wCollo c => exact decode_command (decode_wireCollo c)
  | wPage p => exact decode_command (decode_wirePage p)
  | wInv p => exact decode_command (decode_wireInv p)
  | wData d => exact decode_data d

/-- Settles O11: thirteen closed words, each decoded by evaluation. -/
theorem handWrittenWordsDecode : Obligations.HandWrittenWordsDecode := by
  unfold Obligations.HandWrittenWordsDecode
  decide

end Sys2Proof

/-! Proofs: what no step reads (spec/10_state.md R38, R48, spec/42_displaybus.md R171): the byte received and the records. Each
agent's step on a state with these disguised is the disguise of its step, but that SER_SHIFT overwrites the byte. -/

namespace Sys2Proof.Machine

/-! ## The disguise of a state -/

/-- Another byte in RXBUF, if any, something put before each record, and REFUSED perhaps set. -/
structure Disguise where
  rx : Option Byte
  wire : List WireEvent
  actlog : List Channel
  reasons : List RefuseReason
  refused : Bool

def State.disguise (d : Disguise) (s : State) : State :=
  { s with
    rxbuf := d.rx.getD s.rxbuf
    wire := d.wire ++ s.wire
    actlog := d.actlog ++ s.actlog
    reasons := d.reasons ++ s.reasons
    refused := d.refused || s.refused }

/-- The disguise with the byte in RXBUF left as it is. -/
def Disguise.showRx (d : Disguise) : Disguise := { d with rx := none }

section Commutes
variable (d : Disguise) (s : State)

theorem running_disguise : (s.disguise d).running = s.running := rfl

theorem setRunning_disguise (c : Ctx) : (s.disguise d).setRunning c = (s.setRunning c).disguise d :=
  (setRunning_update_comm s c (State.disguise d) fun _ _ _ => rfl).symm

theorem setWork_disguise (w : List Task) : (s.disguise d).setWork w = (s.setWork w).disguise d := setRunning_disguise d s _

theorem pushTasks_disguise (ts : List Task) : (s.disguise d).pushTasks ts = (s.pushTasks ts).disguise d :=
  setWork_disguise d s _

theorem setBph_disguise (b : BPhase) : (s.disguise d).setBph b = (s.setBph b).disguise d := setRunning_disguise d s _

theorem setLocals_disguise (l : Locals) : (s.disguise d).setLocals l = (s.setLocals l).disguise d := setRunning_disguise d s _

theorem setChan_disguise (ch : Channel) (c : Chan) : (s.disguise d).setChan ch c = (s.setChan ch c).disguise d := by
  cases ch <;> rfl

theorem chan_disguise (ch : Channel) : (s.disguise d).chan ch = s.chan ch := by cases ch <;> rfl

theorem refuse_disguise (r : RefuseReason) : (s.disguise d).refuse r = (s.refuse r).disguise d := by
  simp [State.disguise, State.refuse]

theorem wireEmit_disguise (e : WireEvent) : (s.disguise d).wireEmit e = (s.wireEmit e).disguise d := by
  simp [State.disguise, State.wireEmit]

theorem returnFromHandler_disguise : (s.disguise d).returnFromHandler = s.returnFromHandler.disguise d := by
  have hhs : (s.disguise d).hs = s.hs := rfl
  unfold State.returnFromHandler
  rw [hhs]
  cases s.hs with
  | nil => rfl
  | cons r older =>
    obtain ⟨src, gieAtEntry, c⟩ := r
    cases src <;> rfl

theorem enter_disguise (src : Source) : (s.disguise d).enter src = (s.enter src).disguise d := by
  cases src <;> rfl

/-! ## Each step of the running context -/

theorem startXfer_disguise (m : Mode) (n : Nat) (b : Bytes6) :
    (s.disguise d).startXfer m n b = (s.startXfer m n b).disguise d := by
  have hc : xferCheck n (s.disguise d) = xferCheck n s := rfl
  unfold State.startXfer
  rw [hc]
  cases xferCheck n s with
  | some r => exact refuse_disguise d s r
  | none => symm; exact (pushTasks_disguise d _ _).symm

theorem startSetpos_disguise (page : BitVec 4) (col : BitVec 8) :
    (s.disguise d).startSetpos page col = (s.startSetpos page col).disguise d := by
  unfold State.startSetpos
  cases setposCheck page col with
  | some r => exact refuse_disguise d s r
  | none => exact startXfer_disguise d s _ _ _

theorem startGlyph_disguise (idx page : BitVec 4) (col : BitVec 8) :
    (s.disguise d).startGlyph idx page col = (s.startGlyph idx page col).disguise d := by
  unfold State.startGlyph
  cases glyphCheck idx page col with
  | some r => exact refuse_disguise d s r
  | none => simp only [running_disguise, setLocals_disguise, setBph_disguise, pushTasks_disguise]

theorem glyphStep_disguise : (s.disguise d).glyphStep = s.glyphStep.disguise d := by
  have hpar : (s.disguise d).par = s.par := rfl
  unfold State.glyphStep
  rw [running_disguise, hpar]
  cases s.running.bph <;> simp only [setBph_disguise, pushTasks_disguise]

theorem startRender_disguise (v : Int) (page : BitVec 4) (col : BitVec 8) :
    (s.disguise d).startRender v page col = (s.startRender v page col).disguise d := by
  have hpar : (s.disguise d).par = s.par := rfl
  unfold State.startRender
  rw [hpar]
  cases renderCheck s.par v page col with
  | some r => exact refuse_disguise d s r
  | none => simp only [running_disguise, setLocals_disguise, pushTasks_disguise]

theorem renderStep_disguise (k : Nat) : (s.disguise d).renderStep k = (s.renderStep k).disguise d := by
  unfold State.renderStep
  split
  · rw [running_disguise, pushTasks_disguise]
  · rfl

theorem startCntstep_disguise : (s.disguise d).startCntstep = s.startCntstep.disguise d := by
  have hc : renderable (s.disguise d).par ((s.disguise d).counter + (s.disguise d).par.counterStep) =
      renderable s.par (s.counter + s.par.counterStep) := rfl
  unfold State.startCntstep
  rw [hc]
  split
  · exact pushTasks_disguise d { s with counter := s.counter + s.par.counterStep } _
  · exact refuse_disguise d s _

theorem phaseByte_disguise : (s.disguise d).phaseByte = s.phaseByte.disguise d := by
  symm
  exact apply_ite (State.disguise d) (s.txrdy = true) _ _

theorem phaseWaitIdle_disguise : (s.disguise d).phaseWaitIdle = s.phaseWaitIdle.disguise d := by
  symm
  exact apply_ite (State.disguise d) (s.busy = true) _ _

theorem phaseSelect_disguise : (s.disguise d).phaseSelect = s.phaseSelect.disguise d := by
  rw [State.phaseSelect, wireEmit_disguise]; rfl

theorem phaseMode_disguise : (s.disguise d).phaseMode = s.phaseMode.disguise d := by
  rw [State.phaseMode, wireEmit_disguise]; rfl

theorem phaseDeselect_disguise : (s.disguise d).phaseDeselect = s.phaseDeselect.disguise d := by
  rw [State.phaseDeselect, wireEmit_disguise]; rfl

theorem framerStep_disguise : (s.disguise d).framerStep = s.framerStep.disguise d := by
  have hx : (s.disguise d).xph = s.xph := rfl
  unfold State.framerStep
  rw [hx]
  cases s.xph with
  | idle => rfl
  | select => exact (congrArg _ (phaseSelect_disguise d s)).trans (pushTasks_disguise d _ _)
  | mode => exact (congrArg _ (phaseMode_disguise d s)).trans (pushTasks_disguise d _ _)
  | byte => exact (congrArg _ (phaseByte_disguise d s)).trans (pushTasks_disguise d _ _)
  | waitIdle => exact (congrArg _ (phaseWaitIdle_disguise d s)).trans (pushTasks_disguise d _ _)
  | drain => exact pushTasks_disguise d s.phaseDrain _
  | deselect => exact (congrArg _ (phaseDeselect_disguise d s)).trans (pushTasks_disguise d _ _)
  | restore => rfl

theorem actLog_disguise (ch : Channel) : (s.disguise d).actLog ch = (s.actLog ch).disguise d := by
  have hlog : ({ s.disguise d with actlog := (s.disguise d).actlog ++ [ch] } : State) =
      State.disguise d { s with actlog := s.actlog ++ [ch] } := by simp [State.disguise]
  rw [State.actLog, hlog, pushTasks_disguise]
  rfl

theorem pinStep_disguise (ch : Channel) : (s.disguise d).pinStep ch = (s.pinStep ch).disguise d := by
  have hdph : ((s.disguise d).chan ch).dph = (s.chan ch).dph := congrArg Chan.dph (chan_disguise d s ch)
  cases hd : (s.chan ch).dph with
  | idle =>
    rw [pinStep_idle hd, pinStep_idle (hdph.trans hd), pinDecide_eq, pinDecide_eq, chan_disguise, setChan_disguise,
      pushTasks_disguise]
  | act => rw [pinStep_act hd, pinStep_act (hdph.trans hd), actLog_disguise]
  | fin =>
    rw [pinStep_fin hd, pinStep_fin (hdph.trans hd), State.pinFinish, State.pinFinish, chan_disguise, setChan_disguise,
      returnFromHandler_disguise]

theorem suppressAndArm_disguise (ch : Channel) : (s.disguise d).suppressAndArm ch = (s.suppressAndArm ch).disguise d := by
  rw [suppressAndArm_eq, suppressAndArm_eq, chan_disguise, ← setChan_disguise]
  rfl

theorem disguise_disarm (ch : Channel) : (s.disguise d).disarm ch = (s.disarm ch).disguise d := by
  rw [State.disarm, State.disarm, chan_disguise, setChan_disguise]

theorem deadlineExpired_disguise (ch : Channel) : (s.disguise d).deadlineExpired ch = (s.deadlineExpired ch).disguise d := by
  rw [State.deadlineExpired, State.deadlineExpired, chan_disguise, setChan_disguise, disguise_disarm,
    returnFromHandler_disguise]

theorem perform_disguise (t : Task) : (s.disguise d).perform t = (s.perform t).disguise d := by
  cases t with
  | xfer m n b => exact startXfer_disguise d s m n b
  | framer => exact framerStep_disguise d s
  | setpos page col => exact startSetpos_disguise d s page col
  | glyph idx page col => exact startGlyph_disguise d s idx page col
  | glyphNext => exact glyphStep_disguise d s
  | render v page col => exact startRender_disguise d s v page col
  | renderNext k => exact renderStep_disguise d s k
  | invert => exact pushTasks_disguise d { s with pol := s.pol ^^^ 1 } _
  | sendPolarity => exact startXfer_disguise d s _ _ _
  | cntstep => exact startCntstep_disguise d s
  | renderCounter => exact startRender_disguise d s _ _ _
  | pinHandler ch => exact pinStep_disguise d s ch
  | actArm ch => exact (congrArg _ (suppressAndArm_disguise d s ch)).trans (pushTasks_disguise d _ _)
  | dlexp ch => exact deadlineExpired_disguise d s ch
  | tmrother => exact returnFromHandler_disguise d { s with tmrOtherPend := false }

theorem softStep_disguise : (s.disguise d).softStep = s.softStep.disguise d := by
  unfold State.softStep
  rw [running_disguise]
  cases s.running.work with
  | nil => rfl
  | cons t rest => exact (congrArg _ (setWork_disguise d s rest)).trans (perform_disguise d _ t)

/-! ## The peripheral and the environment -/

theorem serAccept_disguise : (s.disguise d).serAccept = s.serAccept.disguise d := by
  symm
  exact apply_ite (State.disguise d) (s.serAcceptEnabled = true) _ _

/-- SER_SHIFT overwrites RXBUF with a draw. -/
theorem serShift_disguise (h : s.shbusy = true) : (s.disguise d).serShift = s.serShift.disguise d.showRx := by
  have h' : (s.disguise d).shbusy = true := h
  rw [State.serShift, if_pos h', State.serShift, if_pos h]
  simp [State.disguise, Disguise.showRx, State.wireEmit, State.nextDraw]

theorem deliver_disguise (src : Source) : (s.disguise d).deliver src = (s.deliver src).disguise d := by
  have hd : (s.disguise d).deliverable src = s.deliverable src := by cases src <;> rfl
  unfold State.deliver
  rw [hd]
  split
  · exact enter_disguise d s src
  · rfl

theorem writeGie_disguise (v : Bool) : (s.disguise d).writeGie v = (s.writeGie v).disguise d := by
  symm
  exact apply_ite (State.disguise d) (s.mainIdle = true) _ _

theorem setButton_disguise (ch : Channel) (level : Bool) :
    (s.disguise d).setButton ch level = (s.setButton ch level).disguise d := by
  rw [State.setButton, State.setButton, chan_disguise, setChan_disguise]

theorem highestDeliverable_disguise : (s.disguise d).highestDeliverable = s.highestDeliverable := by
  have hd : (fun src => (s.disguise d).deliverable src) = fun src => s.deliverable src := by
    funext src
    cases src <;> rfl
  have hpar : (s.disguise d).par = s.par := rfl
  simp only [State.highestDeliverable, funext_iff.1 hd, hpar]

end Commutes

/-! ## Two runs that differ in the disguise -/

/-- `t` is `s` disguised, where RXBUF may have come to hold the same byte. -/
def Twins (d : Disguise) (s t : State) : Prop := t = s.disguise d ∨ t = s.disguise d.showRx

theorem twins_map {f : State → State} (hf : ∀ d s, f (s.disguise d) = (f s).disguise d) {d : Disguise} {s t : State}
    (h : Twins d s t) : Twins d (f s) (f t) := by
  rcases h with rfl | rfl
  · exact .inl (hf _ s)
  · exact .inr (hf _ s)

theorem twins_serShift {d : Disguise} {s t : State} (h : Twins d s t) : Twins d s.serShift t.serShift := by
  cases hb : s.shbusy with
  | true =>
    rcases h with rfl | rfl
    · exact .inr (serShift_disguise d s hb)
    · exact .inr (serShift_disguise d.showRx s hb)
  | false =>
    have ht : t.shbusy = false := by rcases h with rfl | rfl <;> exact hb
    rwa [State.serShift, State.serShift, if_neg (by simp [hb]), if_neg (by simp [ht])]

theorem twins_serStep {d : Disguise} {s t : State} (h : Twins d s t) : Twins d s.serStep t.serStep := by
  have hb : t.shbusy = s.shbusy := by rcases h with rfl | rfl <;> rfl
  unfold State.serStep
  rw [hb]
  split
  · exact twins_serShift h
  · exact twins_map serAccept_disguise h

theorem twins_serMoves {d : Disguise} {s t : State} (h : Twins d s t) :
    (t.par.serLive && t.serEnabled) = (s.par.serLive && s.serEnabled) := by rcases h with rfl | rfl <;> rfl

theorem twins_coreStep {d : Disguise} {s t : State} (h : Twins d s t) : Twins d s.coreStep t.coreStep := by
  unfold State.coreStep
  rw [twins_serMoves h]
  split
  · exact twins_serStep h
  · exact twins_map softStep_disguise h

theorem twins_settle {d : Disguise} {s t : State} (h : Twins d s t) (depth left fuel : Nat) :
    Twins d (State.settle depth left fuel s) (State.settle depth left fuel t) := by
  induction fuel generalizing s t with
  | zero => exact h
  | succ fuel ih =>
    have hset : t.settled depth left = s.settled depth left := by rcases h with rfl | rfl <;> rfl
    rw [State.settle, State.settle, hset]
    split
    · exact h
    · exact ih (twins_coreStep h)

theorem twins_callOp (task : Task) {d : Disguise} {s t : State} (h : Twins d s t) : Twins d (s.callOp task) (t.callOp task) := by
  have hhs : t.hs = s.hs := by rcases h with rfl | rfl <;> rfl
  have hrun : t.running = s.running := by rcases h with rfl | rfl <;> rfl
  unfold State.callOp State.complete
  rw [hhs, hrun]
  exact twins_settle (twins_map (fun d s => pushTasks_disguise d s [task]) h) _ _ _

theorem twins_inject (src : Source) {d : Disguise} {s t : State} (h : Twins d s t) : Twins d (s.inject src) (t.inject src) := by
  have hhs : t.hs = s.hs := by rcases h with rfl | rfl <;> rfl
  have hrun : t.running = s.running := by rcases h with rfl | rfl <;> rfl
  have hin : t.inService src = s.inService src := by rcases h with rfl | rfl <;> cases src <;> rfl
  have hx : t.xph = s.xph := by rcases h with rfl | rfl <;> rfl
  unfold State.inject State.complete
  rw [hhs, hrun, hin, hx]
  split
  · exact h
  · exact twins_settle (twins_map (fun d s => enter_disguise d s src) h) _ _ _

theorem twins_autoStep {d : Disguise} {s t : State} (h : Twins d s t) : Twins d s.autoStep t.autoStep := by
  have hd : t.highestDeliverable = s.highestDeliverable := by
    rcases h with rfl | rfl <;> exact highestDeliverable_disguise _ s
  unfold State.autoStep
  rw [twins_serMoves h, hd]
  split
  · exact twins_serStep h
  · cases s.highestDeliverable with
    | some src => exact twins_map (fun d s => enter_disguise d s src) h
    | none => exact twins_map softStep_disguise h

/-- Where the one outcome is a next state, the other is too, and the two are twins. -/
def TwinOutcomes (d : Disguise) (o o' : Host.Outcome State Fault Refusal) : Prop :=
  ∀ s, o = .next s → ∃ t, o' = .next t ∧ Twins d s t

theorem twinOutcomes_next {d : Disguise} {s t : State} (h : Twins d s t) : TwinOutcomes d (.next s) (.next t) := by
  rintro _ ⟨⟩
  exact ⟨t, rfl, h⟩

theorem twinOutcomes_exec (i : Instr) {d : Disguise} {s t : State} (h : Twins d s t) : TwinOutcomes d (exec i s) (exec i t) := by
  cases i with
  | pinchg1 => exact twinOutcomes_next (twins_inject _ h)
  | pinchg2 => exact twinOutcomes_next (twins_inject _ h)
  | dlexp1 => exact twinOutcomes_next (twins_inject _ h)
  | dlexp2 => exact twinOutcomes_next (twins_inject _ h)
  | tmrother => exact twinOutcomes_next (twins_inject _ h)
  | tick => exact twinOutcomes_next (twins_map (f := State.tick) (fun _ _ => rfl) h)
  | btnset ch level => exact twinOutcomes_next (twins_map (fun d s => setButton_disguise d s ch level) h)
  | reserved7 => exact twinOutcomes_next (twins_map (fun d s => refuse_disguise d s _) h)
  | reservedEF low => exact twinOutcomes_next (twins_map (fun d s => refuse_disguise d s _) h)
  | xfer mode len b => exact twinOutcomes_next (twins_callOp _ h)
  | setpos page col => exact twinOutcomes_next (twins_callOp _ h)
  | glyph idx page col => exact twinOutcomes_next (twins_callOp _ h)
  | render v page col => exact twinOutcomes_next (twins_callOp _ h)
  | invert => exact twinOutcomes_next (twins_callOp _ h)
  | cntstep => exact twinOutcomes_next (twins_callOp _ h)
  | wColhi c => exact twinOutcomes_next (twins_callOp _ h)
  | wCollo c => exact twinOutcomes_next (twins_callOp _ h)
  | wPage p => exact twinOutcomes_next (twins_callOp _ h)
  | wInv p => exact twinOutcomes_next (twins_callOp _ h)
  | wData b => exact twinOutcomes_next (twins_callOp _ h)

theorem twinOutcomes_issueInstr (i : Instr) {d : Disguise} {s t : State} (h : Twins d s t) :
    TwinOutcomes d (s.issueInstr i) (t.issueInstr i) := by
  have hmay : t.mayIssue = s.mayIssue := by rcases h with rfl | rfl <;> rfl
  unfold State.issueInstr
  cases opTask i with
  | some task =>
    refine twinOutcomes_next ?_
    rw [hmay]
    split
    · exact twins_map (fun d s => pushTasks_disguise d s [task]) h
    · exact h
  | none =>
    cases eventSource i with
    | some src => exact twinOutcomes_next (twins_map (fun d s => deliver_disguise d s src) h)
    | none => exact twinOutcomes_exec i h

/-- A disguise that puts nothing before the records and leaves REFUSED. -/
def Disguise.rxOnly (d : Disguise) : Prop := d.wire = [] ∧ d.actlog = [] ∧ d.reasons = [] ∧ d.refused = false

/-- Reset writes RXBUF and empties the records: what is before them would be lost. -/
theorem twins_reset {d : Disguise} (hd : d.rxOnly) {s t : State} (h : Twins d s t) : Twins d s.resetEvent t.resetEvent := by
  obtain ⟨hw, ha, hr, hf⟩ := hd
  have hsame : t.resetEvent = s.resetEvent := by rcases h with rfl | rfl <;> rfl
  exact .inr (by simp [hsame, State.disguise, Disguise.showRx, hw, ha, hr, hf])

theorem twinOutcomes_move {d : Disguise} {m : Move} (hm : m = .reset → d.rxOnly) {s t : State} (h : Twins d s t) :
    TwinOutcomes d (s.move m) (t.move m) := by
  cases m with
  | request r =>
    show TwinOutcomes d (s.request r) (t.request r)
    unfold State.request
    cases decode r with
    | instr i => exact twinOutcomes_exec i h
    | reject e => rintro _ ⟨⟩
  | issue r =>
    show TwinOutcomes d (s.issue r) (t.issue r)
    unfold State.issue
    cases decode r with
    | instr i => exact twinOutcomes_issueInstr i h
    | reject e => rintro _ ⟨⟩
  | run => exact twinOutcomes_next (twins_map softStep_disguise h)
  | serAccept => exact twinOutcomes_next (twins_map serAccept_disguise h)
  | serShift => exact twinOutcomes_next (twins_serShift h)
  | deliver src => exact twinOutcomes_next (twins_map (fun d s => deliver_disguise d s src) h)
  | tmrOtherRequest => exact twinOutcomes_next (twins_map (f := fun s => { s with tmrOtherPend := true }) (fun _ _ => rfl) h)
  | setGie v => exact twinOutcomes_next (twins_map (fun d s => writeGie_disguise d s v) h)
  | setBacklight v => exact twinOutcomes_next (twins_map (f := fun s => { s with bl := v }) (fun _ _ => rfl) h)
  | reset => exact twinOutcomes_next (twins_reset (hm rfl) h)

theorem twinOutcomes_step {d : Disguise} {s t : State} (hreset : s.port.head? = some .reset → d.rxOnly) (h : Twins d s t) :
    TwinOutcomes d (step s) (step t) := by
  have hport : t.port = s.port := by rcases h with rfl | rfl <;> rfl
  unfold step
  rw [hport]
  cases hs : s.port with
  | nil => exact twinOutcomes_next (twins_autoStep h)
  | cons m rest =>
    have h' := twins_map (f := fun u => { u with port := rest }) (fun _ _ => rfl) h
    exact twinOutcomes_move (fun hm => hreset (by rw [hs, hm]; rfl)) h'

/-- Settles O54: a state with another byte in RXBUF is a disguise of it, and so are the next states. -/
theorem receivedByteIsNeverUsed : Obligations.ReceivedByteIsNeverUsed := by
  intro s s' x hstep
  let d : Disguise := { rx := some x, wire := [], actlog := [], reasons := [], refused := false }
  obtain ⟨t, ht, htwins⟩ := twinOutcomes_step (d := d) (fun _ => ⟨rfl, rfl, rfl, rfl⟩) (.inl rfl) s' hstep
  have hstep' : step { s with rxbuf := x } = .next t := by simpa [State.disguise, d] using ht
  rcases htwins with rfl | rfl
  · exact ⟨x, by simpa [State.disguise, d] using hstep'⟩
  · exact ⟨s'.rxbuf, by simpa [State.disguise, Disguise.showRx, d] using hstep'⟩

/-- Settles O55: a state with more before its records is a disguise of it that shows RXBUF, and so are the next states. -/
theorem recordsAreNeverRead : Obligations.RecordsAreNeverRead := by
  intro s s' w a rs b hreset hstep
  let d : Disguise := { rx := none, wire := w, actlog := a, reasons := rs, refused := b }
  obtain ⟨t, ht, htwins⟩ := twinOutcomes_step (d := d) (fun hr => absurd hr hreset) (.inl rfl) s' hstep
  have heq : t = s'.disguise d := htwins.elim id id
  exact ht.trans (congrArg _ heq)

end Sys2Proof.Machine

/-! Proofs: transfers (spec/42_displaybus.md). XFER's start as a step of the running context (R161), its run to completion (R160,
R172), the peripheral's two steps (R170, R171), the count of the steps left (R279), and the transfer that hangs (R173). -/

namespace Sys2Proof.Machine

/-! ## The start of a transfer -/

/-- What phase 1 writes (R161). -/
def State.latchXfer (m : Mode) (n : Nat) (b : Bytes6) (s : State) : State :=
  { s with
    savedGie := s.gie
    gie := false
    xmode := m
    xlen := n
    xidx := 0
    xbuf := loadBytes n b s.xbuf
    xph := .select }

theorem xferCheck_idle {s : State} {n : Nat} (hx : s.xph = .idle) (h1 : 1 ≤ n) (h6 : n ≤ xferMaxLen) :
    xferCheck n s = none := by
  have hn : ¬(n = 0 ∨ xferMaxLen < n) := by omega
  simp [xferCheck, hx, hn]

theorem xferCheck_busy {s : State} (hx : s.xph ≠ .idle) (n : Nat) : xferCheck n s = some .busBusy := by simp [xferCheck, hx]

theorem xferCheck_length {s : State} (hx : s.xph = .idle) {n : Nat} (hn : n = 0 ∨ xferMaxLen < n) :
    xferCheck n s = some .xferLength := by simp [xferCheck, hx, hn]

theorem startXfer_refused {s : State} {n : Nat} {r : RefuseReason} (h : xferCheck n s = some r) (m : Mode) (b : Bytes6) :
    s.startXfer m n b = s.refuse r := by rw [State.startXfer, h]

theorem startXfer_legal {s : State} {n : Nat} (h : xferCheck n s = none) (m : Mode) (b : Bytes6) :
    s.startXfer m n b = (s.latchXfer m n b).pushTasks [.framer] := by
  rw [State.startXfer, h]
  rfl

theorem latchXfer_setWork (m : Mode) (n : Nat) (b : Bytes6) (s : State) (w : List Task) :
    (s.setWork w).latchXfer m n b = (s.latchXfer m n b).setWork w :=
  setWork_comm (State.latchXfer m n b) (fun _ _ _ => rfl) s w

/-- Phase 1 in a context whose next task, already taken off, calls XFER. -/
theorem startXfer_setWork {s : State} {n : Nat} (hx : s.xph = .idle) (h1 : 1 ≤ n) (h6 : n ≤ xferMaxLen) (m : Mode) (b : Bytes6)
    (rest : List Task) : (s.setWork rest).startXfer m n b = (s.latchXfer m n b).setWork (.framer :: rest) := by
  rw [startXfer_legal (xferCheck_idle (by rwa [setWork_xph]) h1 h6), latchXfer_setWork, setWork_pushTasks]
  rfl

/-- Settles O32: the step is XFER's start step with its task taken off the work. -/
theorem transferStartSavesAndClearsGie : Obligations.TransferStartSavesAndClearsGie := by
  intro s m n b rest hw hx h1 h6
  rw [softStep_cons s hw]
  exact startXfer_setWork hx h1 h6 m b rest

/-! ## The whole transfer -/

/-- A completed transfer writes the registers of the bus and the wire. -/
theorem afterXfer_withBusOf (m : Mode) (n : Nat) (b : Bytes6) (s : State) :
    afterXfer m n b s = { s.withBusOf (afterXfer m n b s) with wire := s.wire ++ frame m (bytesUpTo n b) } := rfl

/-- Settles O30: XFER comes to `afterXfer`, whose registers are as the statement has them. -/
theorem transferSendsOneFrame : Obligations.TransferSendsOneFrame := by
  intro s m len b hr h1 h6
  exact ⟨afterXfer m len.toNat b s, exec_xfer_ready m b hr h1 h6, afterXfer_withBusOf m len.toNat b s, rfl, rfl, rfl, rfl, rfl,
    rfl, rfl, rfl, rfl, rfl, rfl⟩

/-- Settles O38: a wire byte's call is that of a transfer of one byte. -/
theorem wireByteRowsSendOneByte : Obligations.WireByteRowsSendOneByte := by
  intro s hr sends
  have one : ∀ (i : Instr) (m : Mode) (b : Byte), exec i s = .next (s.callOp (taskWireByte m b)) → sends i m b := by
    intro i m b hexec
    have hrun : s.callOp (taskWireByte m b) = afterXfer m 1 (oneByte b) s :=
      callOp_xfer m 1 (oneByte b) s hr (Nat.le_refl 1) (by decide)
    rw [hrun] at hexec
    exact ⟨_, hexec, afterXfer_withBusOf m 1 (oneByte b) s, rfl, rfl, rfl⟩
  exact ⟨fun c => one _ _ _ rfl, fun c => one _ _ _ rfl, fun p => one _ _ _ rfl, fun p => one _ _ _ rfl,
    fun d => one _ _ _ rfl⟩

/-- Settles O39: SETPOS comes to the transfer of the three bytes of the position. -/
theorem setPositionSendsThreeBytes : Obligations.SetPositionSendsThreeBytes := by
  intro s page col hr hp hc
  exact ⟨_, congrArg Host.Outcome.next (callOp_setpos page col s hr hp hc), rfl, rfl, rfl,
    afterXfer_withBusOf .command 3 (posBytes page col) s⟩

/-! ## The peripheral -/

theorem serAccept_enabled {s : State} (ht : s.txrdy = false) (hb : s.shbusy = false) :
    s.serAccept = { s with shreg := s.txbuf, shbusy := true, txrdy := true } :=
  if_pos (by simp [State.serAcceptEnabled, ht, hb])

theorem serAccept_disabled {s : State} (h : s.txrdy = true ∨ s.shbusy = true) : s.serAccept = s := by
  refine if_neg ?_
  rcases h with h | h <;> simp [State.serAcceptEnabled, h]

theorem serShift_disabled {s : State} (h : s.shbusy = false) : s.serShift = s := if_neg (by simp [h])

/-- Settles O34: the byte received and the levels of the lines are the next draw's. -/
theorem peripheralAcceptsAndShifts : Obligations.PeripheralAcceptsAndShifts := by
  intro s
  exact ⟨serAccept_enabled, serAccept_disabled, fun hb => ⟨s.nextDraw.rx, s.nextDraw.sclk, s.nextDraw.mosi, if_pos hb⟩,
    serShift_disabled⟩

/-! ## The steps left -/

/-- The steps the peripheral has still to take for the bytes loaded. -/
def State.peripheralLeft (s : State) : Nat := (if s.txrdy then 0 else 2) + (if s.shbusy then 1 else 0)

section TransferLeft
variable {s : State}

theorem transferLeft_select (hx : s.xph = .select) : s.transferLeft = 6 + 3 * s.xlen := by rw [State.transferLeft, hx]

theorem transferLeft_mode (hx : s.xph = .mode) : s.transferLeft = 5 + 3 * s.xlen := by rw [State.transferLeft, hx]

theorem transferLeft_byte (hx : s.xph = .byte) : s.transferLeft = 4 + 3 * (s.xlen - s.xidx) + s.peripheralLeft := by
  rw [State.transferLeft, hx, State.peripheralLeft]

theorem transferLeft_waitIdle (hx : s.xph = .waitIdle) : s.transferLeft = 4 + s.peripheralLeft := by
  rw [State.transferLeft, hx, State.peripheralLeft]

theorem transferLeft_drain (hx : s.xph = .drain) : s.transferLeft = 3 := by rw [State.transferLeft, hx]

theorem transferLeft_deselect (hx : s.xph = .deselect) : s.transferLeft = 2 := by rw [State.transferLeft, hx]

theorem transferLeft_restore (hx : s.xph = .restore) : s.transferLeft = 1 := by rw [State.transferLeft, hx]

theorem transferLeft_idle (hx : s.xph = .idle) : s.transferLeft = 0 := by rw [State.transferLeft, hx]

theorem peripheralLeft_idle (h : s.serIdle = true) : s.peripheralLeft = 0 := by
  simp only [State.serIdle, Bool.and_eq_true, Bool.not_eq_true'] at h
  simp [State.peripheralLeft, h]

/-- R172: a framer that spins waits for a byte that the peripheral still holds. -/
theorem serEnabled_of_framerStuck (h : s.framerStuck = true) : s.serEnabled = true := by
  simp only [State.framerStuck, State.busy, Bool.or_eq_true, Bool.and_eq_true, decide_eq_true_eq, Bool.not_eq_true'] at h
  simp only [State.serEnabled, State.serAcceptEnabled]
  rcases h with ⟨-, ht⟩ | ⟨-, ht | hb⟩
  · cases s.shbusy <;> simp [ht]
  · cases s.shbusy <;> simp [ht]
  · simp [hb]

theorem not_serEnabled_of_serIdle (h : s.serIdle = true) : s.serEnabled = false := by
  simp only [State.serIdle, Bool.and_eq_true, Bool.not_eq_true'] at h
  simp [State.serEnabled, State.serAcceptEnabled, h]

/-- An accepted byte has one step left and not two, a byte shifted out none. -/
theorem peripheralLeft_serStep (h : s.serEnabled = true) : s.serStep.peripheralLeft + 1 = s.peripheralLeft := by
  cases hb : s.shbusy with
  | true =>
    rw [State.serStep, if_pos hb, State.serShift, if_pos hb]
    simp [State.peripheralLeft, hb, State.wireEmit]
  | false =>
    have ht : s.txrdy = false := by simpa [State.serEnabled, State.serAcceptEnabled, hb] using h
    rw [State.serStep, if_neg (by simp [hb]), serAccept_enabled ht hb]
    simp [State.peripheralLeft, ht, hb]

/-- The peripheral leaves the phase, the length and the count of the bytes loaded to the framer. -/
theorem serStep_transfer (s : State) : s.serStep.xph = s.xph ∧ s.serStep.xlen = s.xlen ∧ s.serStep.xidx = s.xidx := by
  unfold State.serStep
  split
  · unfold State.serShift
    split <;> exact ⟨rfl, rfl, rfl⟩
  · unfold State.serAccept
    split <;> exact ⟨rfl, rfl, rfl⟩

theorem transferLeft_serStep (hinv : s.frameInv) (h : s.serEnabled = true) : s.serStep.transferLeft + 1 = s.transferLeft := by
  obtain ⟨hxph, hxlen, hxidx⟩ := serStep_transfer s
  have hleft := peripheralLeft_serStep h
  have hbusy : s.serIdle ≠ true := fun hidle => by rw [not_serEnabled_of_serIdle hidle] at h; cases h
  unfold State.frameInv at hinv
  cases hx : s.xph <;> rw [hx] at hinv
  case byte =>
    rw [transferLeft_byte hx, transferLeft_byte (hxph.trans hx), hxlen, hxidx]
    omega
  case waitIdle =>
    rw [transferLeft_waitIdle hx, transferLeft_waitIdle (hxph.trans hx)]
    omega
  case idle => exact absurd hinv.2.2 hbusy
  case select => exact absurd hinv.2.2.1 hbusy
  case mode => exact absurd hinv.2.2.1 hbusy
  case drain => exact absurd hinv.2.2.2.1 hbusy
  case deselect => exact absurd hinv.2.2.2.1 hbusy
  case restore => exact absurd hinv.2.2 hbusy

end TransferLeft

theorem framerStuck_byte {s : State} (hx : s.xph = .byte) : s.framerStuck = !s.txrdy := by simp [State.framerStuck, hx]

theorem framerStuck_waitIdle {s : State} (hx : s.xph = .waitIdle) : s.framerStuck = s.busy := by simp [State.framerStuck, hx]

/-- Loading a byte trades three steps of the count left for the two the peripheral has to take. -/
theorem transferLeft_phaseByte {s : State} (hx : s.xph = .byte) (ht : s.txrdy = true) (hlt : s.xidx < s.xlen) :
    s.phaseByte.transferLeft + 1 = s.transferLeft := by
  have hleft : s.phaseByte.peripheralLeft = s.peripheralLeft + 2 := by
    rw [phaseByte_ready ht]
    cases hb : s.shbusy <;> simp [State.peripheralLeft, ht, hb]
  rw [transferLeft_byte hx]
  by_cases hlast : s.xidx + 1 = s.xlen
  · have hx' : s.phaseByte.xph = .waitIdle := by rw [phaseByte_ready ht]; exact if_pos hlast
    rw [transferLeft_waitIdle hx', hleft]
    omega
  · have hx' : s.phaseByte.xph = .byte := by rw [phaseByte_ready ht]; exact if_neg hlast
    have hcount : s.phaseByte.xlen = s.xlen ∧ s.phaseByte.xidx = s.xidx + 1 := by rw [phaseByte_ready ht]; exact ⟨rfl, rfl⟩
    rw [transferLeft_byte hx', hleft, hcount.1, hcount.2]
    omega

/-- Each phase that is not stuck takes one step off. -/
theorem transferLeft_softStep {s : State} {rest : List Task} (hinv : s.frameInv) (hne : s.xph ≠ .idle)
    (hw : s.running.work = .framer :: rest) (hfree : s.framerStuck = false) : s.softStep.transferLeft + 1 = s.transferLeft := by
  unfold State.frameInv at hinv
  cases hx : s.xph <;> rw [hx] at hinv
  case idle => exact absurd hx hne
  case select =>
    rw [softStep_select hw hx, transferLeft_select hx, transferLeft_mode rfl]
    show 5 + 3 * s.xlen + 1 = _
    omega
  case mode =>
    obtain ⟨-, -, hidle, -, hidx⟩ := hinv
    rw [softStep_mode hw hx, transferLeft_mode hx, transferLeft_byte rfl,
      peripheralLeft_idle (s := s.phaseMode) hidle]
    show 4 + 3 * (s.xlen - s.xidx) + 0 + 1 = _
    omega
  case byte =>
    have ht : s.txrdy = true := by simpa [framerStuck_byte hx] using hfree
    obtain ⟨-, -, -, -, hlt⟩ := hinv
    rw [softStep_byte hw hx, transferLeft_phaseByte hx ht hlt]
  case waitIdle =>
    rw [framerStuck_waitIdle hx] at hfree
    have hser : s.txrdy = true ∧ s.shbusy = false := by simpa [State.busy] using hfree
    rw [softStep_waitIdle hw hx, phaseWaitIdle_done hser.1 hser.2, transferLeft_waitIdle hx, transferLeft_drain rfl,
      peripheralLeft_idle (by simp [State.serIdle, hser])]
  case drain => rw [softStep_drain hw hx, transferLeft_drain hx, transferLeft_deselect rfl]
  case deselect => rw [softStep_deselect hw hx, transferLeft_deselect hx, transferLeft_restore rfl]
  case restore => rw [softStep_restore hw hx, transferLeft_restore hx, transferLeft_idle (by rw [setWork_xph]; rfl)]

/-- Settles O36: the count by phase, of the framer's steps and of the peripheral's. -/
theorem everyTransferStepCountsDown : Obligations.EveryTransferStepCountsDown := by
  intro s rest hinv hne hw
  refine ⟨serEnabled_of_framerStuck, transferLeft_softStep hinv hne hw, transferLeft_serStep hinv, fun hx => ?_⟩
  rw [transferLeft_select hx]
  omega

/-! ## The transfer that hangs -/

theorem softStep_of_framerStuck {s : State} {rest : List Task} (hw : s.running.work = .framer :: rest)
    (h : s.framerStuck = true) : s.softStep = s := by
  simp only [State.framerStuck, Bool.or_eq_true, Bool.and_eq_true, decide_eq_true_eq, Bool.not_eq_true'] at h
  rcases h with ⟨hx, ht⟩ | ⟨hx, hb⟩
  · rw [softStep_byte hw hx, phaseByte_full ht]
  · rw [softStep_waitIdle hw hx, phaseWaitIdle_busy ((busy_iff s).1 hb)]

/-- Without the peripheral a stuck framer uses up any fuel where it is. -/
theorem settle_of_framerStuck {s : State} {rest : List Task} (hw : s.running.work = .framer :: rest)
    (h : s.framerStuck = true) (hlive : s.par.serLive = false) (depth left fuel : Nat) :
    State.settle depth left fuel s = s := by
  have hstay : s.coreStep = s := by
    rw [State.coreStep, if_neg (by simp [hlive]), softStep_of_framerStuck hw h]
  induction fuel with
  | zero => rfl
  | succ fuel ih =>
    rw [State.settle, hstay, ih]
    exact ite_self _

/-- A transfer of `n` bytes up to the load of its first, with the peripheral idle before. -/
def State.firstByteLoaded (m : Mode) (n : Nat) (b : Bytes6) (s : State) : State :=
  (s.latchXfer m n b).phaseSelect.phaseMode.phaseByte

theorem firstByteLoaded_eq {s : State} (ht : s.txrdy = true) (m : Mode) (n : Nat) (b : Bytes6) :
    s.firstByteLoaded m n b =
      { (s.latchXfer m n b).phaseSelect.phaseMode with
        txbuf := getByte (loadBytes n b s.xbuf) 0
        txrdy := false
        xidx := 1
        xph := if 1 = n then .waitIdle else .byte } :=
  phaseByte_ready ht

/-- With a peripheral that takes no step, XFER stops after its first load. -/
theorem callOp_xfer_hangs {s : State} (hlive : s.par.serLive = false) (hx : s.xph = .idle) (ht : s.txrdy = true) (m : Mode)
    {n : Nat} (h1 : 1 ≤ n) (h6 : n ≤ xferMaxLen) (b : Bytes6) :
    s.callOp (.xfer m n b) = (s.firstByteLoaded m n b).pushTasks [.framer] := by
  have still : ∀ u : State, u.par.serLive = s.par.serLive → (u.par.serLive && u.serEnabled) = false :=
    fun u hu => by rw [hu, hlive, Bool.false_and]
  have hstuck : ((s.firstByteLoaded m n b).pushTasks [.framer]).framerStuck = true := by
    rw [firstByteLoaded_eq ht]
    by_cases hn : 1 = n <;> simp [State.framerStuck, State.busy, hn]
  unfold State.callOp State.complete
  rw [show coreFuel = 1020 + 1 + 1 + 1 + 1 from rfl]
  refine (settle_perform _ _ _ (within_self s) (still s rfl)).trans ?_
  simp only [State.perform, startXfer_legal (xferCheck_idle hx h1 h6)]
  refine (settle_perform (s.latchXfer m n b) _ _ (by exact within_self s) (still _ rfl)).trans ?_
  refine (settle_perform (s.latchXfer m n b).phaseSelect _ _ (by exact within_self s) (still _ rfl)).trans ?_
  refine (settle_perform (s.latchXfer m n b).phaseSelect.phaseMode _ _ (by exact within_self s) (still _ rfl)).trans ?_
  refine settle_of_framerStuck (rest := s.running.work) ?_ hstuck ?_ _ _ _
  · rw [running_pushTasks, firstByteLoaded_eq ht]; rfl
  · rw [pushTasks_par, firstByteLoaded_eq ht]; exact hlive

/-- Settles O37: a stuck framer's step changes nothing; without the peripheral XFER is stuck after its first load. -/
theorem stuckTransferHangs : Obligations.StuckTransferHangs := by
  refine ⟨fun s rest n hw h => Function.iterate_fixed (softStep_of_framerStuck hw h) n, ?_⟩
  intro s m len b hlive hx ht hb h1 h6
  have hgie : ((s.firstByteLoaded m len.toNat b).pushTasks [.framer]).gie = false := by
    rw [pushTasks_gie, firstByteLoaded_eq ht]; rfl
  refine ⟨_, congrArg Host.Outcome.next (callOp_xfer_hangs hlive hx ht m h1 h6 b), ?stuck, hgie, ?cs, ?txrdy, ?quiescent,
    deliverable_of_masked hgie⟩ <;> rw [firstByteLoaded_eq ht]
  case stuck => by_cases hn : 1 = len.toNat <;> simp [State.framerStuck, State.busy, hn]
  case cs => rw [pushTasks_cs]; rfl
  case txrdy => rw [pushTasks_txrdy]
  case quiescent => by_cases hn : 1 = len.toNat <;> simp [State.quiescent, hn]

end Sys2Proof.Machine

/-! Proofs: the drawing operations (spec/44_glyph_blit.md, spec/45_bound_actions.md). The phases of GLYPH (R201), the frames of
RENDER (R213), and INVERT and CNTSTEP as runs (R210, R212) and step by step. -/

namespace Sys2Proof.Machine

/-! ## The phases of GLYPH -/

@[simp] theorem setRunning_setWork (s : State) (w : List Task) (c : Ctx) : (s.setWork w).setRunning c = s.setRunning c :=
  setRunning_setRunning s _ c

theorem glyphCheck_legal {idx page : BitVec 4} {col : BitVec 8} (hi : idx.toNat ≤ 12) (hp : page.toNat ≤ 6)
    (hc : col.toNat ≤ 131) : glyphCheck idx page col = none := by
  simp [glyphCheck, nGlyph, glyphPageMax, colMax, Nat.not_le.2 (Nat.lt_succ_of_le hi), Nat.not_lt.2 hp, Nat.not_lt.2 hc]

theorem startGlyph_legal {idx page : BitVec 4} {col : BitVec 8} (h : glyphCheck idx page col = none) (s : State) :
    s.startGlyph idx page col =
      State.setRunning
        { work := .setpos (page + 1) col :: .glyphNext :: s.running.work
          bph := .posUp
          loc := { s.running.loc with bidx := idx, bpage := page, bcol := col } } s := by
  rw [State.startGlyph, h]
  simp [State.setLocals, State.setBph, State.pushTasks, State.setWork]

/-- A phase of the glyph sequencer writes the running context: the next phase, and the call it makes before the work. -/
theorem setBph_pushTasks (s : State) (b : BPhase) (ts : List Task) :
    (s.setBph b).pushTasks ts = State.setRunning { s.running with work := ts ++ s.running.work, bph := b } s := by
  simp [State.setBph, State.pushTasks, State.setWork]

section GlyphPhase
variable {s : State}

theorem glyphStep_posUp (h : s.running.bph = .posUp) :
    s.glyphStep = State.setRunning
      { s.running with
        work := .xfer .data halfBytes (fontHalf s.par s.running.loc.bidx 0) :: .glyphNext :: s.running.work
        bph := .dataUp } s := by
  rw [State.glyphStep, h]
  exact setBph_pushTasks s _ _

theorem glyphStep_dataUp (h : s.running.bph = .dataUp) :
    s.glyphStep = State.setRunning
      { s.running with
        work := .setpos s.running.loc.bpage s.running.loc.bcol :: .glyphNext :: s.running.work
        bph := .posLo } s := by
  rw [State.glyphStep, h]
  exact setBph_pushTasks s _ _

theorem glyphStep_posLo (h : s.running.bph = .posLo) :
    s.glyphStep = State.setRunning
      { s.running with
        work := .xfer .data halfBytes (fontHalf s.par s.running.loc.bidx halfBytes) :: .glyphNext :: s.running.work
        bph := .dataLo } s := by
  rw [State.glyphStep, h]
  exact setBph_pushTasks s _ _

theorem glyphStep_dataLo (h : s.running.bph = .dataLo) :
    s.glyphStep = State.setRunning { s.running with bph := .idle } s := by
  rw [State.glyphStep, h]
  rfl

end GlyphPhase

theorem getByte_fontHalf (p : Params) (idx : BitVec 4) (off : Nat) {k : Nat} (hk : k < 6) :
    getByte (fontHalf p idx off) k = p.font.getD (12 * idx.toNat + (off + k)) 0 := by
  interval_cases k <;> rfl

/-- Settles O58: each phase as `startGlyph` and `glyphStep` have it, with the context's task taken off its work. -/
theorem glyphPhasesStepByStep : Obligations.GlyphPhasesStepByStep := by
  refine ⟨fun s idx page col rest hw hi hp hc => ?start, fun s rest hw => ⟨fun hb => ?posUp, fun hb => ?dataUp, fun hb => ?posLo,
    fun hb => ?dataLo⟩, fun p idx off k hk => getByte_fontHalf p idx off hk⟩ <;> rw [softStep_cons s hw]
  case start =>
    refine (startGlyph_legal (glyphCheck_legal hi hp hc) _).trans ?_
    simp
  case posUp =>
    refine (glyphStep_posUp (by rwa [running_setWork])).trans ?_
    simp
  case dataUp =>
    refine (glyphStep_dataUp (by rwa [running_setWork])).trans ?_
    simp
  case posLo =>
    refine (glyphStep_posLo (by rwa [running_setWork])).trans ?_
    simp
  case dataLo =>
    refine (glyphStep_dataLo (by rwa [running_setWork])).trans ?_
    simp

/-! ## RENDER -/

@[simp] theorem afterRender_cs (v : Int) (page : BitVec 4) (col : BitVec 8) (s : State) :
    (afterRender v page col s).cs = .deasserted := by simp [afterRender, List.range_succ]

@[simp] theorem afterRender_cd (v : Int) (page : BitVec 4) (col : BitVec 8) (s : State) :
    (afterRender v page col s).cd = .data := by simp [afterRender, List.range_succ]

@[simp] theorem afterRender_rxfull (v : Int) (page : BitVec 4) (col : BitVec 8) (s : State) :
    (afterRender v page col s).rxfull = false := by simp [afterRender, List.range_succ]

theorem renderColumn_zero (col : BitVec 8) : renderColumn col 0 = col := by simp [renderColumn]

/-- R213: the sign's frames, then those of the digit buffer. -/
theorem renderFrames_eq (p : Params) (v : Int) (page : BitVec 4) (col : BitVec 8) :
    renderFrames p v page col =
      glyphFrames p (if 0 ≤ v then 10 else 11) page col ++
        (List.range 5).flatMap (fun k =>
          glyphFrames p ((digits v.natAbs).getD k 12) page (BitVec.ofNat 8 (col.toNat + 8 * (k + 1)))) := by
  rw [renderFrames, List.range_succ_eq_map, List.flatMap_cons, List.flatMap_map, renderColumn_zero]
  rfl

/-- Settles O43: RENDER comes to `afterRender`, which differs from the state before in the registers of the bus, the frames and
the running context (`afterRender_drew`). -/
theorem renderDrawsSignAndFiveDigits : Obligations.RenderDrawsSignAndFiveDigits := by
  intro s v page col hr hp hc hv
  obtain ⟨c, hwork, hbph, hdrew⟩ := afterRender_drew v page col s
  refine ⟨_, c, congrArg Host.Outcome.next (callOp_render v page col s hr hp hc hv), afterRender_cs .., afterRender_cd ..,
    afterRender_rxfull .., hwork, hbph, ?_⟩
  rw [← renderFrames_eq]
  exact hdrew

/-! ## INVERT -/

theorem wireInv_eq (p : BitVec 1) : wireInv p = if p = 1 then 0xA7 else 0xA6 := by revert p; decide

theorem togglePol_setWork (s : State) (w : List Task) :
    { s.setWork w with pol := (s.setWork w).pol ^^^ 1 } = State.setWork w { s with pol := s.pol ^^^ 1 } :=
  setWork_comm (fun u => { u with pol := u.pol ^^^ 1 }) (fun _ _ _ => rfl) s w

/-- Settles O44: the run is `afterInvert`; the toggle, and then the start of the transfer of the bit that POL holds. -/
theorem invertSendsTheNewPolarity : Obligations.InvertSendsTheNewPolarity := by
  refine ⟨fun s hr => ?run, fun s rest hw => ?toggle, fun s rest hw hx => ?send⟩
  case run =>
    rw [← wireInv_eq]
    exact ⟨afterInvert s, exec_invert_ready hr, rfl, rfl, rfl, rfl⟩
  case toggle =>
    rw [softStep_cons s hw, State.perform, State.startInvert, togglePol_setWork, setWork_pushTasks]
    rfl
  case send =>
    rw [softStep_cons s hw, ← wireInv_eq]
    have hpol : (s.setWork rest).pol = s.pol := setWork_pol s rest
    rw [State.perform, State.sendPolarity, hpol]
    exact startXfer_setWork hx (Nat.le_refl 1) (by decide) .command (oneByte (wireInv s.pol)) rest

/-! ## CNTSTEP -/

theorem serMoves_of_still {s : State} (h : s.peripheralStill = true) : (s.par.serLive && s.serEnabled) = false := by
  rwa [State.peripheralStill, Bool.not_eq_true'] at h

theorem render_operands_of_wf {p : Params} (h : p.wf = true) :
    p.renderPage.toNat ≤ glyphPageMax ∧ p.renderCol.toNat ≤ renderColMax := by
  obtain ⟨-, -, -, -, -, -, -, hpage, hcol⟩ := (wf_iff p).1 h
  exact ⟨hpage, hcol⟩

theorem renderable_iff {p : Params} {w : Nat} (hw : p.valWidth = some w) (v : Int) :
    renderable p v = true ↔ -(2 ^ (w - 1) : Int) < v ∧ v < 2 ^ (w - 1) := by
  simp [renderable, hw]

theorem startCntstep_fits {s : State} (h : renderable s.par (s.counter + s.par.counterStep) = true) :
    s.startCntstep = State.pushTasks [.renderCounter] { s with counter := s.counter + s.par.counterStep } := if_pos h

theorem startCntstep_refused {s : State} (h : renderable s.par (s.counter + s.par.counterStep) = false) :
    s.startCntstep = s.refuse .valueRange := if_neg (by simp [h])

theorem addStep_setWork (s : State) (w : List Task) :
    { s.setWork w with counter := (s.setWork w).counter + (s.setWork w).par.counterStep } =
      State.setWork w { s with counter := s.counter + s.par.counterStep } :=
  setWork_comm (fun u => { u with counter := u.counter + u.par.counterStep }) (fun _ _ _ => rfl) s w

/-- Settles O46: the run that fits is RENDER's from the sum; the one that does not fit is refused at the first step; the second
step is RENDER's start step. -/
theorem counterStepAddsAndRenders : Obligations.CounterStepAddsAndRenders := by
  refine ⟨fun s hr hwf hv => ?run, fun s w hstill hw hout => ?refused, fun s rest hw hv => ?sum, fun s rest hw => ?render⟩
  case run =>
    obtain ⟨hp, hc⟩ := render_operands_of_wf hwf
    obtain ⟨c, hwork, hbph, hdrew⟩ := afterRender_drew (s.counter + s.par.counterStep) s.par.renderPage s.par.renderCol
      { s with counter := s.counter + s.par.counterStep }
    exact ⟨_, c, congrArg Host.Outcome.next (callOp_cntstep s hr hp hc hv), afterRender_cs .., afterRender_cd ..,
      afterRender_rxfull .., hwork, hbph, hdrew⟩
  case refused =>
    have hv : renderable s.par (s.counter + s.par.counterStep) = false := by
      rw [Bool.eq_false_iff, Ne, renderable_iff hw]
      omega
    have hser : (s.par.serLive && s.serEnabled) = false := serMoves_of_still hstill
    exact congrArg Host.Outcome.next (callOp_refused .cntstep .valueRange s hser (startCntstep_refused hv))
  case sum =>
    rw [softStep_cons s hw, State.perform, startCntstep_fits (by simpa using hv), addStep_setWork, setWork_pushTasks]
    rfl
  case render =>
    have hcall : (State.setWork (.render s.counter s.par.renderPage s.par.renderCol :: rest) s).running.work =
        .render s.counter s.par.renderPage s.par.renderCol :: rest := by rw [running_setWork]
    rw [softStep_cons s hw, softStep_cons _ hcall]
    simp [State.perform, State.renderCounter, State.setWork]

/-! ## Refused requests -/

section Refused
variable {s : State}

theorem startSetpos_refused {page : BitVec 4} {col : BitVec 8} {r : RefuseReason} (h : setposCheck page col = some r) :
    s.startSetpos page col = s.refuse r := by rw [State.startSetpos, h]

theorem startSetpos_legal {page : BitVec 4} {col : BitVec 8} (h : setposCheck page col = none) :
    s.startSetpos page col = s.startXfer .command 3 (posBytes page col) := by rw [State.startSetpos, h]

theorem startGlyph_refused {idx page : BitVec 4} {col : BitVec 8} {r : RefuseReason} (h : glyphCheck idx page col = some r) :
    s.startGlyph idx page col = s.refuse r := by rw [State.startGlyph, h]

theorem startRender_refused {v : Int} {page : BitVec 4} {col : BitVec 8} {r : RefuseReason}
    (h : renderCheck s.par v page col = some r) : s.startRender v page col = s.refuse r := by rw [State.startRender, h]

end Refused

theorem setposCheck_column {col : BitVec 8} (h : 131 < col.toNat) (page : BitVec 4) : setposCheck page col = some .columnRange :=
  if_pos h

theorem setposCheck_page {page : BitVec 4} {col : BitVec 8} (hc : col.toNat ≤ 131) (h : 7 < page.toNat) :
    setposCheck page col = some .pageRange := by
  simp [setposCheck, colMax, pageMax, Nat.not_lt.2 hc, h]

theorem glyphCheck_index {idx : BitVec 4} (h : 12 < idx.toNat) (page : BitVec 4) (col : BitVec 8) :
    glyphCheck idx page col = some .glyphIndex := if_pos h

theorem glyphCheck_page {idx page : BitVec 4} (hi : idx.toNat ≤ 12) (h : 6 < page.toNat) (col : BitVec 8) :
    glyphCheck idx page col = some .pageRange := by
  simp [glyphCheck, nGlyph, glyphPageMax, Nat.not_le.2 (Nat.lt_succ_of_le hi), h]

theorem glyphCheck_column {idx page : BitVec 4} {col : BitVec 8} (hi : idx.toNat ≤ 12) (hp : page.toNat ≤ 6) (h : 131 < col.toNat) :
    glyphCheck idx page col = some .columnRange := by
  simp [glyphCheck, nGlyph, glyphPageMax, colMax, Nat.not_le.2 (Nat.lt_succ_of_le hi), Nat.not_lt.2 hp, h]

theorem renderCheck_page {page : BitVec 4} (h : 6 < page.toNat) (p : Params) (v : Int) (col : BitVec 8) :
    renderCheck p v page col = some .pageRange := if_pos h

theorem renderCheck_column {page : BitVec 4} {col : BitVec 8} (hp : page.toNat ≤ 6) (h : 91 < col.toNat) (p : Params) (v : Int) :
    renderCheck p v page col = some .columnRange := by
  simp [renderCheck, glyphPageMax, renderColMax, Nat.not_lt.2 hp, h]

theorem renderCheck_value {p : Params} {v : Int} {page : BitVec 4} {col : BitVec 8} (hp : page.toNat ≤ 6) (hc : col.toNat ≤ 91)
    (h : renderable p v = false) : renderCheck p v page col = some .valueRange := by
  simp [renderCheck, glyphPageMax, renderColMax, Nat.not_lt.2 hp, Nat.not_lt.2 hc, h]

/-- Settles O31: an operation refused at its start step does nothing else (`callOp_refused`), and each clause names the check
that fails first. -/
theorem illegalRequestsAreRefused : Obligations.IllegalRequestsAreRefused := by
  intro s hstill refusal
  have hser : (s.par.serLive && s.serEnabled) = false := serMoves_of_still hstill
  have op : ∀ (t : Task) (r : RefuseReason), s.perform t = s.refuse r → Host.Outcome.next (s.callOp t) = refusal r :=
    fun t r h => congrArg Host.Outcome.next (callOp_refused t r s hser h)
  have busy : s.xph ≠ .idle → ∀ m n b, Host.Outcome.next (s.callOp (.xfer m n b)) = refusal .busBusy :=
    fun hx m n b => op _ _ (startXfer_refused (xferCheck_busy hx n) m b)
  refine ⟨rfl, fun _ => rfl, fun m b hx => ⟨?len0, ?len7⟩, fun m len b hx => busy hx m len.toNat b,
    fun page col hp hc hx => ?posBusy,
    fun hx => ⟨fun c => ⟨busy hx _ _ _, busy hx _ _ _⟩, fun p => busy hx _ _ _, fun p => busy hx _ _ _, fun d => busy hx _ _ _⟩,
    fun page col h => op _ _ (startSetpos_refused (setposCheck_column h page)),
    fun page col hc h => op _ _ (startSetpos_refused (setposCheck_page hc h)),
    fun idx page col h => op _ _ (startGlyph_refused (glyphCheck_index h page col)),
    fun idx page col hi h => op _ _ (startGlyph_refused (glyphCheck_page hi h col)),
    fun idx page col hi hp h => op _ _ (startGlyph_refused (glyphCheck_column hi hp h)),
    fun v page col h => op _ _ (startRender_refused (renderCheck_page h s.par v col)),
    fun v page col hp h => op _ _ (startRender_refused (renderCheck_column hp h s.par v)),
    fun w page col hw hp hc => ?value⟩
  case len0 => exact op _ _ (startXfer_refused (xferCheck_length hx (.inl rfl)) m b)
  case len7 => exact op _ _ (startXfer_refused (xferCheck_length hx (.inr (by decide))) m b)
  case posBusy =>
    exact op _ _ ((startSetpos_legal (setposCheck_legal hp hc)).trans (startXfer_refused (xferCheck_busy hx 3) _ _))
  case value =>
    refine op _ _ (startRender_refused (renderCheck_value hp hc ?_))
    rw [Bool.eq_false_iff, Ne, renderable_iff hw]
    exact fun h => lt_irrefl _ h.1

end Sys2Proof.Machine

/-! Proofs: the events in the core layer (spec/40_debounce.md, spec/60_exceptions.md). Each path of a handler as a whole run (R121,
R125, R144), then what follows for several events: one press acts once (R127), and the channels do not interfere (R51). -/

namespace Sys2Proof.Machine

/-! ## Events that do not act -/

theorem exec_pinchg (ch : Channel) (s : State) : exec (pinchg ch) s = .next (s.inject (pinSource ch)) := by cases ch <;> rfl

theorem exec_dlexp (ch : Channel) (s : State) : exec (dlexp ch) s = .next (s.inject (deadlineSource ch)) := by cases ch <;> rfl

theorem inject_not_injectable {s : State} {src : Source} (h : s.injectable src = false) : s.inject src = s := by
  have hguard : (s.inService src || decide (s.xph ≠ .idle)) = true := by
    rw [State.injectable] at h
    cases hin : s.inService src <;> simp_all
  rw [State.inject, if_pos hguard]

/-- Settles O25: an event that is not injectable has no step. -/
theorem eventIsNotInjectedOverItself : Obligations.EventIsNotInjectedOverItself := by
  intro s ch
  refine ⟨fun h => ?_, fun h => ?_, fun h => congrArg Host.Outcome.next (inject_not_injectable h)⟩
  · rw [exec_pinchg, inject_not_injectable h]
  · rw [exec_dlexp, inject_not_injectable h]

/-- Settles O16: TMROTHER's handler is one step and its return. -/
theorem otherTimerSourceIsIgnored : Obligations.OtherTimerSourceIsIgnored := by
  intro s h hstill
  exact congrArg Host.Outcome.next (inject_tmrother s h hstill)

theorem exec_dlexp_still {s : State} {ch : Channel} (h : s.injectable (deadlineSource ch) = true) (hstill : s.peripheralStill = true) :
    exec (dlexp ch) s = .next (afterDeadline ch s) := by
  rw [exec_dlexp, inject_dlexp ch s h hstill]

/-- Settles O20: DLEXP comes to `afterDeadline`; a deliverable source is pending by its flag and its enable. -/
theorem deadlineExpiredClearsSuppression : Obligations.DeadlineExpiredClearsSuppression := by
  intro s ch
  refine ⟨exec_dlexp_still, fun hdel => ?_⟩
  rw [State.deliverable, Bool.and_eq_true, Bool.and_eq_true, pending_deadlineSource, Bool.and_eq_true] at hdel
  exact hdel.1.1

theorem not_qualifies {s : State} {ch : Channel} (h : (s.chan ch).supp = true ∨ (s.chan ch).edgeSel = .release) :
    s.qualifies ch = false := by
  rcases h with h | h <;> simp [State.qualifies, h]

theorem exec_pinchg_idle {s : State} {ch : Channel} (h : s.injectable (pinSource ch) = true) (hstill : s.peripheralStill = true)
    (hd : (s.chan ch).dph = .idle) (hq : s.qualifies ch = false) : exec (pinchg ch) s = .next (afterIdlePin ch s) := by
  rw [exec_pinchg, inject_pin_idle ch s h hstill hd hq]

/-- Settles O21: on paths (a) and (b) PINCHG comes to `afterIdlePin`. -/
theorem pinChangeWithoutActionFlipsTheEdge : Obligations.PinChangeWithoutActionFlipsTheEdge := by
  intro s ch h hstill hd hpath
  exact exec_pinchg_idle h hstill hd (not_qualifies hpath)

/-! ## Presses that act -/

/-- Settles O22: the press comes to `afterPress` over the transfer of the toggled bit. -/
theorem polarityPressInvertsAndSuppresses : Obligations.PolarityPressInvertsAndSuppresses := by
  intro s h hr hd hsupp hedge
  have hq : s.qualifies .two = true := (qualifies_iff s .two).2 ⟨hsupp, hedge⟩
  exact ⟨_, congrArg Host.Outcome.next (inject_press_invert s h hr hd hq), rfl, rfl, rfl, rfl⟩

theorem afterPress_cs (ch : Channel) (a s : State) : (afterPress ch a s).cs = a.cs := by cases ch <;> rfl

theorem afterPress_cd (ch : Channel) (a s : State) : (afterPress ch a s).cd = a.cd := by cases ch <;> rfl

theorem afterPress_rxfull (ch : Channel) (a s : State) : (afterPress ch a s).rxfull = a.rxfull := by cases ch <;> rfl

/-- The state in which the counter's action draws, its record on the stack and the sum written (R123, R212). -/
def State.drawing (s : State) : State :=
  { (actingIn .one s).setChan .one { (s.enter .pinchg1).ch1 with dph := .act } with
    counter := s.counter + s.par.counterStep }

theorem inject_press_drawing {s : State} (h : s.injectable .pinchg1 = true) (hr : s.busReady = true) (hd : s.ch1.dph = .idle)
    (hq : s.qualifies .one = true) (hp : s.par.renderPage.toNat ≤ glyphPageMax) (hc : s.par.renderCol.toNat ≤ renderColMax)
    (hv : renderable s.par (s.counter + s.par.counterStep) = true) :
    s.inject .pinchg1 =
      afterPress .one (afterRender (s.counter + s.par.counterStep) s.par.renderPage s.par.renderCol s.drawing) s :=
  inject_press_cntstep s h hr hd hq hp hc hv

/-- What the handler's end leaves of the drawing: the frames on the wire, and of the stack what was there before the entry. -/
theorem afterPress_drawing {s a : State} {w : List WireEvent} {c : Ctx} (hdrew : a.drew s.drawing w c) :
    afterPress .one a s =
      { s.withBusOf (afterPress .one a s) with
        counter := s.counter + s.par.counterStep
        actlog := s.actlog ++ [.one]
        wire := s.wire ++ w
        ch1 := { s.ch1 with
          supp := true
          dlValid := true
          dlExp := (s.cnt + s.par.fixedDelay) % 2 ^ s.par.cntWidth
          cmpIe := true
          cmpIfg := false
          edgeSel := .release
          pinIfg := false } } :=
  (congrArg (fun a => afterPress .one a s) hdrew).trans rfl

/-- Settles O23: the press comes to `afterPress` over RENDER's run from the sum. -/
theorem counterPressStepsAndSuppresses : Obligations.CounterPressStepsAndSuppresses := by
  intro s h hr hwf hd hsupp hedge hv
  have hq : s.qualifies .one = true := (qualifies_iff s .one).2 ⟨hsupp, hedge⟩
  obtain ⟨hp, hc⟩ := render_operands_of_wf hwf
  obtain ⟨c, -, -, hdrew⟩ := afterRender_drew (s.counter + s.par.counterStep) s.par.renderPage s.par.renderCol s.drawing
  exact ⟨_, congrArg Host.Outcome.next (inject_press_drawing h hr hd hq hp hc hv), (afterPress_cs ..).trans (afterRender_cs ..),
    (afterPress_cd ..).trans (afterRender_cd ..), (afterPress_rxfull ..).trans (afterRender_rxfull ..), afterPress_drawing hdrew⟩

/-- Settles O24: the press comes to `afterPress` over the refusal. -/
theorem refusedCounterPressStillSuppresses : Obligations.RefusedCounterPressStillSuppresses := by
  intro s h hstill hd hsupp hedge hv
  have hq : s.qualifies .one = true := (qualifies_iff s .one).2 ⟨hsupp, hedge⟩
  exact congrArg Host.Outcome.next (inject_press_refused s h hstill hd hq hv)

/-! ## One press acts once -/

/-- Channel `ch` is suppressed and watches `e`, its next PINCHG can be injected and runs undisturbed, and ACTLOG holds `log`. -/
structure Suppressed (ch : Channel) (e : Edge) (log : List Channel) (t : State) : Prop where
  actlog : t.actlog = log
  supp : (t.chan ch).supp = true
  edgeSel : (t.chan ch).edgeSel = e
  dph : (t.chan ch).dph = .idle
  injectable : t.injectable (pinSource ch) = true
  still : t.peripheralStill = true

/-- R121 (c), on either channel. -/
theorem exec_press {s : State} {ch : Channel} (hwf : s.par.wf = true) (hr : s.busReady = true)
    (h : s.injectable (pinSource ch) = true) (hd : (s.chan ch).dph = .idle) (hsupp : (s.chan ch).supp = false)
    (hedge : (s.chan ch).edgeSel = .press) (hv : ch = .one → renderable s.par (s.counter + s.par.counterStep) = true) :
    ∃ t, exec (pinchg ch) s = .next t ∧ Suppressed ch .release (s.actlog ++ [ch]) t := by
  have hstill : s.peripheralStill = true := busReady_still hr
  cases ch with
  | one =>
    obtain ⟨t, hexec, -, -, -, ht⟩ := counterPressStepsAndSuppresses s h hr hwf hd hsupp hedge (hv rfl)
    rw [ht] at hexec
    exact ⟨_, hexec, rfl, rfl, rfl, hd, h, hstill⟩
  | two =>
    obtain ⟨t, hexec, -, -, -, ht⟩ := polarityPressInvertsAndSuppresses s h hr hd hsupp hedge
    rw [ht] at hexec
    exact ⟨_, hexec, rfl, rfl, rfl, hd, h, hstill⟩

section Suppressed
variable {ch : Channel} {e : Edge} {log : List Channel} {t : State}

/-- R121 (a): the suppressed interrupt flips the edge. -/
theorem exec_pinchg_suppressed (h : Suppressed ch e log t) :
    ∃ u, exec (pinchg ch) t = .next u ∧ Suppressed ch (flipEdge e) log u := by
  refine ⟨_, exec_pinchg_idle h.injectable h.still h.dph (not_qualifies (.inl h.supp)), ?_⟩
  obtain ⟨hlog, hsupp, hedge, hdph, hinj, hstill⟩ := h
  cases ch <;> exact ⟨hlog, hsupp, congrArg flipEdge hedge, hdph, hinj, hstill⟩

theorem tick_suppressed (h : Suppressed ch e log t) : Suppressed ch e log t.tick := by
  obtain ⟨hlog, hsupp, hedge, hdph, hinj, hstill⟩ := h
  cases ch <;> exact ⟨hlog, hsupp, hedge, hdph, hinj, hstill⟩

theorem setButton_suppressed (h : Suppressed ch e log t) (c : Channel) (level : Bool) :
    Suppressed ch e log (t.setButton c level) := by
  obtain ⟨hlog, hsupp, hedge, hdph, hinj, hstill⟩ := h
  cases ch <;> cases c <;> exact ⟨hlog, hsupp, hedge, hdph, hinj, hstill⟩

end Suppressed

theorem flipEdge_flipEdge (e : Edge) : flipEdge (flipEdge e) = e := by cases e <;> rfl

theorem execAll_cons {i : Instr} {s t : State} (h : exec i s = .next t) (is : List Instr) :
    execAll (i :: is) s = execAll is t := by rw [execAll, h]

/-- R127: while the channel is suppressed, its interrupts only flip the edge, the environment's events not even that. -/
theorem execAll_suppressed {ch : Channel} {log : List Channel} (is : List Instr)
    (his : ∀ i ∈ is, i = pinchg ch ∨ i = .tick ∨ ∃ c l, i = .btnset c l) (e : Edge) (t : State) (h : Suppressed ch e log t) :
    ∃ u, execAll is t = .next u ∧ Suppressed ch (if is.count (pinchg ch) % 2 = 0 then e else flipEdge e) log u := by
  induction is generalizing e t with
  | nil => exact ⟨t, rfl, h⟩
  | cons i is ih =>
    have hrest := fun j hj => his j (List.mem_cons_of_mem i hj)
    have quiet : ∀ u, i ≠ pinchg ch → exec i t = .next u → Suppressed ch e log u → ∃ v, execAll (i :: is) t = .next v ∧
        Suppressed ch (if (i :: is).count (pinchg ch) % 2 = 0 then e else flipEdge e) log v := by
      intro u hne hexec hu
      rw [execAll_cons hexec, List.count_cons_of_ne hne]
      exact ih hrest e u hu
    rcases his i List.mem_cons_self with rfl | rfl | ⟨c, l, rfl⟩
    · obtain ⟨u, hexec, hu⟩ := exec_pinchg_suppressed h
      obtain ⟨v, hall, hv⟩ := ih hrest (flipEdge e) u hu
      refine ⟨v, (execAll_cons hexec is).trans hall, ?_⟩
      rw [flipEdge_flipEdge] at hv
      rw [List.count_cons_self]
      rcases Nat.mod_two_eq_zero_or_one (is.count (pinchg ch)) with hn | hn
      · simpa [hn, Nat.add_mod] using hv
      · simpa [hn, Nat.add_mod] using hv
    · exact quiet t.tick (by cases ch <;> simp [pinchg]) (exec_tick t) (tick_suppressed h)
    · exact quiet (t.setButton c l) (by cases ch <;> simp [pinchg]) (exec_btnset c l t) (setButton_suppressed h c l)

/-- Settles O27: the press acts and suppresses, and the events that follow act on nothing. -/
theorem onePressActsOnce : Obligations.OnePressActsOnce := by
  intro s ch is his hwf hr h hd hsupp hedge hv
  obtain ⟨t, hexec, ht⟩ := exec_press hwf hr h hd hsupp hedge hv
  obtain ⟨u, hall, hu⟩ := execAll_suppressed is his .release t ht
  exact ⟨u, (execAll_cons hexec is).trans hall, hu.actlog, hu.supp, hu.edgeSel⟩

/-! ## After the deadline -/

theorem chan_afterDeadline (ch : Channel) (s : State) : (afterDeadline ch s).chan ch =
    { s.chan ch with supp := false, dlValid := false, cmpIe := false, cmpIfg := false } := by cases ch <;> rfl

/-- Settles O28: DLEXP leaves the channel unsuppressed and all else that a press needs, so that the next press acts. -/
theorem deadlineLetsTheNextPressAct : Obligations.DeadlineLetsTheNextPressAct := by
  intro s ch hwf hr hpin hdl hd hedge hv
  have hexec := exec_dlexp_still hdl (busReady_still hr)
  have hchan := chan_afterDeadline ch s
  have hsupp : ((afterDeadline ch s).chan ch).supp = false := by rw [hchan]
  obtain ⟨u, hpress, hu⟩ := exec_press (s := afterDeadline ch s) (ch := ch) (by cases ch <;> exact hwf) (by cases ch <;> exact hr)
    (by cases ch <;> exact hpin) (by rw [hchan]; exact hd) hsupp (by rw [hchan]; exact hedge) (by cases ch <;> exact hv)
  have hlog : (afterDeadline ch s).actlog = s.actlog := by cases ch <;> rfl
  exact ⟨_, u, hexec, hsupp, hpress, by rw [hu.actlog, hlog], hu.supp⟩

/-! ## The other channel -/

theorem setRunning_setChan (s : State) (c : Ctx) (ch : Channel) (d : Chan) :
    (s.setChan ch d).setRunning c = (s.setRunning c).setChan ch d :=
  (setRunning_update_comm s c (State.setChan ch d) (fun _ _ _ => by cases ch <;> rfl)).symm

theorem afterXfer_setChan (m : Mode) (n : Nat) (b : Bytes6) (s : State) (ch : Channel) (d : Chan) :
    afterXfer m n b (s.setChan ch d) = (afterXfer m n b s).setChan ch d := by cases ch <;> rfl

theorem afterGlyph_setChan (idx page : BitVec 4) (col : BitVec 8) (s : State) (ch : Channel) (d : Chan) :
    afterGlyph idx page col (s.setChan ch d) = (afterGlyph idx page col s).setChan ch d := by
  simp only [afterGlyph, State.setLocals, State.setBph, running_setChan, setChan_par, setRunning_setChan, afterXfer_setChan]

/-- No drawing reads or writes a channel. -/
theorem afterRender_setChan (v : Int) (page : BitVec 4) (col : BitVec 8) (s : State) (ch : Channel) (d : Chan) :
    afterRender v page col (s.setChan ch d) = (afterRender v page col s).setChan ch d := by
  simp only [afterRender, State.setLocals, running_setChan, setRunning_setChan]
  exact List.foldl_hom (State.setChan ch d) fun t k => afterGlyph_setChan _ page _ t ch d

section OtherChannel
variable {s : State} {ch ch' : Channel}

/-- The event `i` completes in a state that has the registers of channel `ch'` of the state before, whatever they are. -/
def LeavesChannel (i : Instr) (ch' : Channel) (s : State) : Prop :=
  ∃ t, exec i s = .next t ∧ t.chan ch' = s.chan ch' ∧ ∀ c, exec i (s.setChan ch' c) = .next (t.setChan ch' c)

/-- An event that comes to `f` leaves a channel that `f` passes over. -/
theorem leavesChannel_of_comm {i : Instr} (f : State → State) (hexec : ∀ c, exec i (s.setChan ch' c) = .next (f (s.setChan ch' c)))
    (hcomm : ∀ c, f (s.setChan ch' c) = (f s).setChan ch' c) : LeavesChannel i ch' s := by
  have hself : f s = (f s).setChan ch' (s.chan ch') := by
    have h := hcomm (s.chan ch')
    rwa [setChan_chan] at h
  refine ⟨f s, ?_, ?_, fun c => by rw [hexec, hcomm]⟩
  · have h := hexec (s.chan ch')
    rwa [setChan_chan] at h
  · rw [hself, chan_setChan_same]

theorem afterDeadline_setChan (hne : ch' ≠ ch) (s : State) (c : Chan) :
    afterDeadline ch (s.setChan ch' c) = (afterDeadline ch s).setChan ch' c := by
  cases ch <;> cases ch'
  case one.two => rfl
  case two.one => rfl
  all_goals exact absurd rfl hne

theorem afterIdlePin_setChan (hne : ch' ≠ ch) (s : State) (c : Chan) :
    afterIdlePin ch (s.setChan ch' c) = (afterIdlePin ch s).setChan ch' c := by
  cases ch <;> cases ch'
  case one.two => rfl
  case two.one => rfl
  all_goals exact absurd rfl hne

theorem busReady_setChan (s : State) (ch : Channel) (c : Chan) : (s.setChan ch c).busReady = s.busReady := by
  cases ch <;> rfl

theorem injectable_pinSource_setChan (hne : ch' ≠ ch) (c : Chan) :
    (s.setChan ch' c).injectable (pinSource ch) = s.injectable (pinSource ch) := by
  rw [State.injectable, State.injectable, inService_pinSource, inService_pinSource, chan_setChan_other s c hne.symm, setChan_xph]

theorem inService_deadlineSource (s : State) (ch : Channel) : s.inService (deadlineSource ch) = (s.chan ch).insvcDl := by
  cases ch <;> rfl

theorem injectable_deadlineSource_setChan (hne : ch' ≠ ch) (c : Chan) :
    (s.setChan ch' c).injectable (deadlineSource ch) = s.injectable (deadlineSource ch) := by
  rw [State.injectable, State.injectable, inService_deadlineSource, inService_deadlineSource,
    chan_setChan_other s c hne.symm, setChan_xph]

theorem qualifies_setChan (hne : ch' ≠ ch) (c : Chan) : (s.setChan ch' c).qualifies ch = s.qualifies ch := by
  rw [State.qualifies, State.qualifies, chan_setChan_other s c hne.symm]

theorem dlexp_leavesChannel (hne : ch' ≠ ch) (hr : s.busReady = true) (h : s.injectable (deadlineSource ch) = true) :
    LeavesChannel (dlexp ch) ch' s := by
  refine leavesChannel_of_comm (afterDeadline ch) (fun c => ?_) (fun c => ?_)
  · exact exec_dlexp_still (by rwa [injectable_deadlineSource_setChan hne]) (busReady_still (by rwa [busReady_setChan]))
  · exact afterDeadline_setChan hne s c

theorem idlePin_leavesChannel (hne : ch' ≠ ch) (hr : s.busReady = true) (h : s.injectable (pinSource ch) = true)
    (hd : (s.chan ch).dph = .idle) (hq : s.qualifies ch = false) : LeavesChannel (pinchg ch) ch' s := by
  refine leavesChannel_of_comm (afterIdlePin ch) (fun c => ?_) (fun c => ?_)
  · exact exec_pinchg_idle (by rwa [injectable_pinSource_setChan hne]) (busReady_still (by rwa [busReady_setChan]))
      (by rwa [chan_setChan_other s c hne.symm]) (by rwa [qualifies_setChan hne])
  · exact afterIdlePin_setChan hne s c

theorem polarityPress_leavesChannel (hr : s.busReady = true) (h : s.injectable .pinchg2 = true) (hd : s.ch2.dph = .idle)
    (hq : s.qualifies .two = true) : LeavesChannel .pinchg2 .one s :=
  leavesChannel_of_comm
    (fun u => afterPress .two
      (afterXfer .command 1 (oneByte (wireInv (u.pol ^^^ 1))) { actingIn .two u with pol := u.pol ^^^ 1 }) u)
    (fun c => congrArg Host.Outcome.next (inject_press_invert (s.setChan .one c) h hr hd hq)) (fun _ => rfl)

theorem counterPress_leavesChannel (hr : s.busReady = true) (hwf : s.par.wf = true) (h : s.injectable .pinchg1 = true)
    (hd : s.ch1.dph = .idle) (hq : s.qualifies .one = true)
    (hv : renderable s.par (s.counter + s.par.counterStep) = true) : LeavesChannel .pinchg1 .two s := by
  obtain ⟨hp, hc⟩ := render_operands_of_wf hwf
  refine leavesChannel_of_comm
    (fun u => afterPress .one (afterRender (u.counter + u.par.counterStep) u.par.renderPage u.par.renderCol u.drawing) u)
    (fun c => congrArg Host.Outcome.next (inject_press_drawing (s := s.setChan .two c) h hr hd hq hp hc hv)) (fun c => ?_)
  have hdrawing : (s.setChan .two c).drawing = s.drawing.setChan .two c := rfl
  simp only [hdrawing, afterRender_setChan]
  rfl

theorem refusedPress_leavesChannel (hr : s.busReady = true) (h : s.injectable .pinchg1 = true) (hd : s.ch1.dph = .idle)
    (hq : s.qualifies .one = true) (hv : renderable s.par (s.counter + s.par.counterStep) = false) :
    LeavesChannel .pinchg1 .two s :=
  leavesChannel_of_comm (fun u => afterPress .one ((actingIn .one u).refuse .valueRange) u)
    (fun c => congrArg Host.Outcome.next (inject_press_refused (s.setChan .two c) h (busReady_still (s := s) hr) hd hq hv))
    (fun _ => rfl)

theorem pinchg_leavesChannel (hne : ch' ≠ ch) (hr : s.busReady = true) (hwf : s.par.wf = true)
    (h : s.injectable (pinSource ch) = true) (hd : (s.chan ch).dph = .idle) : LeavesChannel (pinchg ch) ch' s := by
  cases hq : s.qualifies ch with
  | false => exact idlePin_leavesChannel hne hr h hd hq
  | true =>
    cases ch <;> cases ch'
    case one.one => exact absurd rfl hne
    case two.two => exact absurd rfl hne
    case two.one => exact polarityPress_leavesChannel hr h hd hq
    case one.two =>
      cases hv : renderable s.par (s.counter + s.par.counterStep) with
      | true => exact counterPress_leavesChannel hr hwf h hd hq hv
      | false => exact refusedPress_leavesChannel hr h hd hq hv

end OtherChannel

/-- Settles O29: each path of each event passes over the other channel. -/
theorem channelsDoNotInterfere : Obligations.ChannelsDoNotInterfere := by
  intro s ch ch' c i hne hi hwf hr hpin hdl hd
  have hleaves : LeavesChannel i ch' s := by
    rcases hi with rfl | rfl
    · exact pinchg_leavesChannel hne hr hwf hpin hd
    · exact dlexp_leavesChannel hne hr hdl
  obtain ⟨t, hexec, hchan, hother⟩ := hleaves
  exact ⟨t, hexec, hchan, hother c⟩

end Sys2Proof.Machine

/-! Proofs: the step of the whole machine (spec/00_scope.md R10, spec/60_exceptions.md R230 to R237). Which move a step makes, which
sources are deliverable, their entry, and the order of the automatic entry. -/

namespace Sys2Proof.Machine

/-! ## The next move -/

theorem step_cons {s : State} {m : Move} {rest : List Move} (h : s.port = m :: rest) :
    step s = State.move m { s with port := rest } := by rw [step, h]

theorem step_nil {s : State} (h : s.port = []) : step s = .next s.autoStep := by rw [step, h]

section Record
variable {r : List Byte} (s : State)

theorem request_instr {i : Instr} (h : decode r = .instr i) : s.request r = exec i s := by rw [State.request, h]

theorem request_reject {e : DecodeError} (h : decode r = .reject e) : s.request r = .refused (.badRecord e) := by
  rw [State.request, h]

theorem issue_instr {i : Instr} (h : decode r = .instr i) : s.issue r = s.issueInstr i := by rw [State.issue, h]

theorem issue_reject {e : DecodeError} (h : decode r = .reject e) : s.issue r = .refused (.badRecord e) := by
  rw [State.issue, h]

end Record

section IssuedInstr
variable {i : Instr} (s : State)

theorem issueInstr_op {t : Task} (h : opTask i = some t) :
    s.issueInstr i = .next (if s.mayIssue then s.pushTasks [t] else s) := by rw [State.issueInstr, h]

theorem issueInstr_event {src : Source} (h : eventSource i = some src) : s.issueInstr i = .next (s.deliver src) := by
  have hop : opTask i = none := by cases i <;> simp [eventSource] at h <;> rfl
  rw [State.issueInstr, hop, h]

theorem issueInstr_other (h : opTask i = none) (h' : eventSource i = none) : s.issueInstr i = exec i s := by
  rw [State.issueInstr, h, h']

end IssuedInstr

theorem decode_of_decodeTableWord {nbits w : Nat} {i : Instr} (h : decodeTableWord nbits w = some i) :
    decode (bytesOfTableWord nbits w) = .instr i := by
  unfold decodeTableWord at h
  split at h
  · rename_i j hj
    rw [hj, Option.some.inj h]
  · cases h

/-- Settles O12: a step with a move listed is `State.move` of it, and the fetch is the decoder's answer. -/
theorem stepRunsTheDecodedInstruction : Obligations.StepRunsTheDecodedInstruction := by
  refine ⟨fun s r rest i hp hd => ?request, fun s r rest i t hp hd ht => ?op, fun s r rest i src hp hd hsrc => ?event,
    fun s r rest i hp hd ht hsrc => ?other, fun s nbits w i hw => ?word, fun s r rest e hp hd => ?reject,
    fun _ _ hp => step_cons hp, fun _ _ hp => step_cons hp, fun _ _ hp => step_cons hp, fun _ _ _ hp => step_cons hp,
    fun _ _ hp => step_cons hp, fun _ => step_nil⟩
  case request => exact (step_cons hp).trans (request_instr _ hd)
  case op => exact ((step_cons hp).trans (issue_instr _ hd)).trans (issueInstr_op _ ht)
  case event => exact ((step_cons hp).trans (issue_instr _ hd)).trans (issueInstr_event _ hsrc)
  case other => exact ((step_cons hp).trans (issue_instr _ hd)).trans (issueInstr_other _ ht hsrc)
  case word => exact (step_cons (s := s.withFetchWord nbits w) rfl).trans (request_instr _ (decode_of_decodeTableWord hw))
  case reject =>
    rcases hp with hp | hp
    · exact (step_cons hp).trans (request_reject _ hd)
    · exact (step_cons hp).trans (issue_reject _ hd)

theorem writeGie_idle {s : State} (hhs : s.hs = []) (hw : s.main.work = []) (v : Bool) : s.writeGie v = { s with gie := v } :=
  if_pos (by simp [State.mainIdle, hhs, hw])

theorem writeGie_busy {s : State} (h : s.hs ≠ [] ∨ s.main.work ≠ []) (v : Bool) : s.writeGie v = s :=
  if_neg (by simpa [State.mainIdle, ← not_and_or] using h)

/-- Settles O57: the three writes of the environment, of which only GIE's has a condition. -/
theorem environmentWritesGieTimerRequestAndBacklight : Obligations.EnvironmentWritesGieTimerRequestAndBacklight := by
  refine ⟨fun s v rest hp => ⟨fun hhs hw => ?idle, fun hbusy => ?busy⟩, fun p u b1 b2 rest draws => ?reset, fun s rest hp => ?timer,
    fun s v rest hp => ?backlight⟩
  case idle => exact (step_cons hp).trans (congrArg Host.Outcome.next (writeGie_idle (s := { s with port := rest }) hhs hw v))
  case busy => exact (step_cons hp).trans (congrArg Host.Outcome.next (writeGie_busy (s := { s with port := rest }) hbusy v))
  case reset => exact ⟨_, rfl, rfl, rfl⟩
  case timer => exact step_cons hp
  case backlight => exact step_cons hp

/-! ## Deliverable sources and their entry -/

theorem deliverable_iff (s : State) (src : Source) :
    s.deliverable src = true ↔ s.pending src = true ∧ s.gie = true ∧ s.inService src = false := by
  simp [State.deliverable, and_assoc]

theorem pending_pinSource (s : State) (ch : Channel) : s.pending (pinSource ch) = (s.chan ch).pinIfg := by cases ch <;> rfl

/-- Settles O47: `deliverable_iff` with each source's own flags and mark. -/
theorem deliverableWhenPendingEnabledAndNotInService : Obligations.DeliverableWhenPendingEnabledAndNotInService := by
  intro s
  refine ⟨fun ch => ?_, fun ch => ?_, ?_⟩
  · rw [deliverable_iff, pending_pinSource, inService_pinSource]
  · rw [deliverable_iff, pending_deadlineSource, inService_deadlineSource, Bool.and_eq_true]
  · rw [deliverable_iff]
    simp [State.pending, State.inService]

theorem deliver_deliverable {s : State} {src : Source} (h : s.deliverable src = true) : s.deliver src = s.enter src := if_pos h

theorem deliver_not_deliverable {s : State} {src : Source} (h : s.deliverable src = false) : s.deliver src = s :=
  if_neg (by simp [h])

theorem deliverable_port (s : State) (ms : List Move) (src : Source) :
    State.deliverable src { s with port := ms } = s.deliverable src := by cases src <;> rfl

/-- Entry as a source is delivered, where GIE is 1. -/
theorem enter_eq_of_gie {s : State} (hg : s.gie = true) (src : Source) :
    s.enter src =
      { s.setInService src true with
        hs := { source := src, gieAtEntry := true, ctx := { work := [handlerTask src], bph := .idle, loc := s.nextDraw.locals.legal } }
          :: s.hs
        gie := !s.par.irqEntryClearsGie
        draws := s.draws + 1 } := by
  have hgie : (if s.par.irqEntryClearsGie then false else s.gie) = !s.par.irqEntryClearsGie := by
    cases s.par.irqEntryClearsGie <;> simp [hg]
  rw [State.enter, hgie, hg]
  rfl

/-- Settles O48: a deliverable source is entered with GIE = 1. -/
theorem interruptEntryPushesARecord : Obligations.InterruptEntryPushesARecord := by
  intro s src rest hp
  have hstep : step s = .next (State.deliver src { s with port := rest }) := step_cons hp
  refine ⟨fun hdel => ?entered, fun hdel => ?kept⟩
  case entered =>
    have hg : s.gie = true := ((deliverable_iff s src).1 hdel).2.1
    rw [hstep, deliver_deliverable (by rwa [deliverable_port]), enter_eq_of_gie (s := { s with port := rest }) hg]
    exact ⟨_, rfl⟩
  case kept => rw [hstep, deliver_not_deliverable (by rwa [deliverable_port])]

/-- Settles O50: the running context's step writes its own record, or returns (`softStep_mayReturn`). -/
theorem preemptedContextsAreUntouched : Obligations.PreemptedContextsAreUntouched := by
  exact softStep_mayReturn

/-! ## The order of the automatic entry -/

/-- One source held against the best so far, as `highestDeliverable` folds it. -/
def State.takeHigher (s : State) (best : Option Source) (src : Source) : Option Source :=
  if s.deliverable src then
    match best with
    | none => some src
    | some b => if rankOf s.par.irqRank b < rankOf s.par.irqRank src then some src else some b
  else best

theorem highestDeliverable_eq_foldl (s : State) : s.highestDeliverable = allSources.foldl s.takeHigher none := rfl

/-- The best so far has at least the rank of `src`. -/
def State.covers (s : State) (src : Source) (best : Option Source) : Prop :=
  ∃ top, best = some top ∧ rankOf s.par.irqRank src ≤ rankOf s.par.irqRank top

theorem covers_takeHigher {s : State} {src : Source} {best : Option Source} (h : s.covers src best) (x : Source) :
    s.covers src (s.takeHigher best x) := by
  obtain ⟨b, rfl, hb⟩ := h
  unfold State.takeHigher
  split
  · by_cases hlt : rankOf s.par.irqRank b < rankOf s.par.irqRank x
    · exact ⟨x, if_pos hlt, hb.trans (Nat.le_of_lt hlt)⟩
    · exact ⟨b, if_neg hlt, hb⟩
  · exact ⟨b, rfl, hb⟩

theorem covers_takeHigher_self {s : State} {src : Source} (h : s.deliverable src = true) (best : Option Source) :
    s.covers src (s.takeHigher best src) := by
  unfold State.takeHigher
  rw [if_pos h]
  cases best with
  | none => exact ⟨src, rfl, Nat.le_refl _⟩
  | some b =>
    by_cases hlt : rankOf s.par.irqRank b < rankOf s.par.irqRank src
    · exact ⟨src, if_pos hlt, Nat.le_refl _⟩
    · exact ⟨b, if_neg hlt, Nat.le_of_not_lt hlt⟩

theorem covers_foldl {s : State} {src : Source} (l : List Source) (best : Option Source)
    (h : s.covers src best ∨ s.deliverable src = true ∧ src ∈ l) : s.covers src (l.foldl s.takeHigher best) := by
  induction l generalizing best with
  | nil => exact h.resolve_right (by simp)
  | cons x l ih =>
    refine ih _ ?_
    rcases h with h | ⟨hdel, hmem⟩
    · exact .inl (covers_takeHigher h x)
    · rcases List.mem_cons.1 hmem with rfl | hmem
      · exact .inl (covers_takeHigher_self hdel best)
      · exact .inr ⟨hdel, hmem⟩

theorem highestDeliverable_none {s : State} (h : ∀ src, s.deliverable src = false) : s.highestDeliverable = none := by
  by_contra hne
  obtain ⟨src, hsrc⟩ := Option.ne_none_iff_exists'.1 hne
  have hdel := highestDeliverable_deliverable s src hsrc
  rw [h src] at hdel
  exact Bool.false_ne_true hdel

theorem autoStep_enter {s : State} (hstill : s.peripheralStill = true) {src : Source} (h : s.highestDeliverable = some src) :
    s.autoStep = s.enter src := by
  rw [State.autoStep, if_neg (by simp [serMoves_of_still hstill]), h]

theorem autoStep_softStep {s : State} (hstill : s.peripheralStill = true) (h : s.highestDeliverable = none) :
    s.autoStep = s.softStep := by
  rw [State.autoStep, if_neg (by simp [serMoves_of_still hstill]), h]

/-- R234: entry clears no pending flag. -/
theorem pending_enter (s : State) (src src' : Source) : (s.enter src).pending src' = s.pending src' := by
  cases src' <;> simp [State.pending]

/-- Settles O51: the highest deliverable source is deliverable, and the fold that finds it keeps to no rank below a deliverable
source's. -/
theorem automaticEntryTakesTheHighestRank : Obligations.AutomaticEntryTakesTheHighestRank := by
  intro s hp hstill
  refine ⟨fun src hdel => ?entered, fun hnone => ?steps⟩
  case entered =>
    obtain ⟨top, htop, hrank⟩ := covers_foldl allSources none (.inr ⟨hdel, mem_allSources src⟩)
    rw [← highestDeliverable_eq_foldl] at htop
    have hpending : s.pending src = true := ((deliverable_iff s src).1 hdel).1
    refine ⟨top, highestDeliverable_deliverable s top htop, hrank, ?_, fun _ => ?_⟩
    · rw [step_nil hp, autoStep_enter hstill htop]
    · rw [pending_enter, hpending]
  case steps => rw [step_nil hp, autoStep_softStep hstill (highestDeliverable_none hnone)]

/-! ## Both layers agree on an operation -/

/-- The meaning of an operation is its call. -/
theorem exec_of_opTask {i : Instr} {t : Task} (h : opTask i = some t) (s : State) : exec i s = .next (s.callOp t) := by
  cases i <;> cases h <;> rfl

theorem masked_trans {s v u : State} (h1 : Masked s v) (h2 : Masked v u) : Masked s u := by
  obtain ⟨ts, hts, hw⟩ := h1.work
  obtain ⟨us, hus, hw'⟩ := h2.work
  refine ⟨h2.gie, h2.sv, h2.hs.trans h1.hs, h2.port.trans h1.port, us ++ ts, fun t ht => ?_, by rw [hw', hw, List.append_assoc]⟩
  exact (List.mem_append.1 ht).elim (hus t) (hts t)

/-- While GIE is 0 the machine's own next move is the core layer's next step. -/
theorem autoStep_eq_coreStep {s : State} (hg : s.gie = false) : s.autoStep = s.coreStep := by
  rw [State.autoStep, State.coreStep, highestDeliverable_of_masked hg]

theorem serStep_port (s : State) : s.serStep.port = s.port := by
  unfold State.serStep
  split
  · unfold State.serShift
    split <;> rfl
  · unfold State.serAccept
    split <;> rfl

theorem masked_serStep {s u : State} (h : Masked s u) : Masked s u.serStep := by
  have hmask := sameMask_serStep u
  refine ⟨hmask.gie.trans h.gie, fun hx => hmask.savedGie.trans (h.sv (by rwa [← hmask.xph])), ?_, (serStep_port u).trans h.port, ?_⟩
  · rw [serStep_hs, h.hs]
  · rw [serStep_running]
    exact h.work

/-- While the operation has a task left, the running context's step is one of the operation. -/
theorem masked_softStep {s u : State} (h : Masked s u) (hleft : s.running.work.length < u.running.work.length) :
    Masked s u.softStep := by
  obtain ⟨ts, hts, hw⟩ := h.work
  cases ts with
  | nil =>
    rw [hw, List.nil_append] at hleft
    exact absurd hleft (Nat.lt_irrefl _)
  | cons t ts =>
    rw [List.forall_mem_cons] at hts
    have htaken : Masked s (u.setWork (ts ++ s.running.work)) :=
      ⟨by rw [setWork_gie, h.gie], by simpa using h.sv, by rw [setWork_hs_length, h.hs], by rw [setWork_port, h.port], ts,
        hts.2, by rw [running_setWork]⟩
    rw [softStep_cons u hw]
    refine masked_trans htaken (masked_perform ⟨htaken.gie, htaken.sv, rfl, rfl, [], List.forall_mem_nil _, rfl⟩ t hts.1)

theorem masked_coreStep {s u : State} (h : Masked s u)
    (hrun : u.settled s.hs.length s.running.work.length = false) : Masked s u.coreStep := by
  have hleft : s.running.work.length < u.running.work.length := by simpa [State.settled, h.hs] using hrun
  unfold State.coreStep
  split
  · exact masked_serStep h
  · exact masked_softStep h hleft

theorem run_next {s t : State} (k : Nat) (h : step s = .next t) :
    Host.Core.run Sys2Proof.core (k + 1) s = Host.Core.run Sys2Proof.core k t := by
  have hstep : Sys2Proof.core.step s = .next t := h
  simp only [Host.Core.run]
  rw [hstep]

/-- A run of the core layer to the end of an operation, made by the block's own moves. -/
theorem exists_run_eq_settle {s : State} (hp : s.port = []) (fuel : Nat) (u : State) (h : Masked s u) :
    ∃ k, Host.Core.run Sys2Proof.core k u = .next (State.settle s.hs.length s.running.work.length fuel u) := by
  induction fuel generalizing u with
  | zero => exact ⟨0, rfl⟩
  | succ fuel ih =>
    rw [State.settle]
    cases hrun : u.settled s.hs.length s.running.work.length with
    | true => exact ⟨0, rfl⟩
    | false =>
      obtain ⟨k, hk⟩ := ih u.coreStep (masked_coreStep h hrun)
      have hstep : step u = .next u.coreStep := by rw [step_nil (h.port.trans hp), autoStep_eq_coreStep h.gie]
      exact ⟨k + 1, (run_next k hstep).trans hk⟩

/-- Settles O56: the first step puts the call before the running context; with GIE 0 the block's own moves are the core layer's
steps until the operation's end. -/
theorem issuedOperationMatchesTheRequest : Obligations.IssuedOperationMatchesTheRequest := by
  intro s i t ht hg hx hmay hp
  have hissued : step { s with port := [.issue (encode i)] } = .next (s.pushTasks [t]) := by
    have hs : ({ s with port := [] } : State) = s := congrArg (fun ms => { s with port := ms }) hp.symm
    rw [step_cons rfl]
    show State.issue (encode i) { s with port := [] } = _
    rw [hs, issue_instr s (decodeOfEncodeIsTheInstruction i), issueInstr_op s ht, if_pos hmay]
  have hself : Masked s s := ⟨hg, fun hne => absurd hx hne, rfl, rfl, [], List.forall_mem_nil _, rfl⟩
  have hcall : Masked s (s.pushTasks [t]) := masked_pushTasks hself [t] (by simpa using opTask_not_handler i t ht)
  obtain ⟨k, hk⟩ := exists_run_eq_settle hp coreFuel _ hcall
  exact ⟨k, (run_next k hissued).trans (hk.trans (exec_of_opTask ht s).symm)⟩

end Sys2Proof.Machine
